-- ==== Sys2Proof/Word.lean ====
section
/-! DEFINITION. The widths of the BPLE's values (00_scope.md R5, R8, R12): bytes, 16-bit masks, 32-bit register words.
Every value of the block is unsigned (R10). -/

namespace Sys2Proof

/-- An 8-bit byte of a payload or of a bus lane (R45, R46). -/
abbrev Byte := BitVec 8

/-- A 16-bit mask: bit i set means that square i holds the piece (R8). -/
abbrev Mask := BitVec 16

/-- A 32-bit register word on the bus (R12, R42). -/
abbrev Word := BitVec 32

end Sys2Proof
end

