-- ==== Sys2Proof/Config.lean ====
section
/-! DEFINITION. What an implementation fixes (00_scope.md R5, R6) and the values the spec leaves free (20_memory.md R49). -/

namespace Sys2Proof.Config

/-- KEY_VERSION (R5): the version byte of the key. -/
def keyVersion : Byte := 0x01

/-- N_SPATIAL (R5): the number of spatial transforms. -/
def nSpatial : Nat := 8

/-- N_SPERM (R5): the number of shape permutations. -/
def nSperm : Nat := 24

/-- N_ELEM (R5): the order of the symmetry group. -/
def nElem : Nat := 384

/-- TBL_ENTRIES (R5): the entries of one permutation table. -/
def tblEntries : Nat := 65536

/-- PAYLOAD_BYTES (R5). -/
def payloadBytes : Nat := 16

/-- The two values 90_conflicts.md C1 leaves to CANON_FLAG_MASK: bit 1 of the flags byte (the default) or bit 0. -/
inductive CanonFlag where
  /-- 0x02, the golden vector's value and the default. -/
  | bit1
  /-- 0x01, the alternative. -/
  | bit0
  deriving DecidableEq, Repr

/-- CANON_FLAG_MASK (R6, C1): the flags byte CANON writes. -/
def CanonFlag.mask : CanonFlag → Byte
  | .bit1 => 0x02
  | .bit0 => 0x01

/-- The parameters a model of the block takes as arguments (R6) and that a command's result can show. No step changes
them. The others of R6 (latencies, table realisation) have no place in a model without time. -/
structure Params where
  /-- CANON_FLAG_MASK; entry 5 of the assumption log. -/
  canonFlag : CanonFlag
  deriving DecidableEq, Repr

/-- The spec's default parameters (R6: CANON_FLAG_MASK = 0x02). -/
def Params.default : Params := { canonFlag := .bit1 }

/-- BPLE_BASE (R6, R40): OPEN, so it has no value here. Host accesses are given as offsets from it (R11), and no step
depends on it; entry 14. -/
opaque bpleBase : Nat

/-- The bus address of byte offset `off` of the register window (R40). -/
def busAddress (off : Nat) : Nat := bpleBase + off

/-- The n-th free value that a read of a result register returns in bits [15:0] while BUSY = 1 (R49, R165, U8).
DESIGN CHOICE (entry 4): an opaque sequence, of which nothing can be proved. -/
opaque freeRead : Nat → Mask

end Sys2Proof.Config
end

