-- ==== Sys2Proof/Syntax.lean ====
section
/-! DEFINITION. The commands of the block (30_encoding.md R66), one constructor per row of spec/opcode_table.json. -/

namespace Sys2Proof

/-- A command (R2, R66) with its operand fields already pulled out of the word (R61 to R64). -/
inductive Instr where
  /-- `nop` (R88). -/
  | nop
  /-- `perm t` (R89): `k` is field T, the spatial transform id. -/
  | perm (k : Fin 8)
  /-- `apply t, x, s` (R108): `k` is field T, `f` field X (true for 1, swap), `p` field S. All 32 values of S can be
  written in a word; only 0..23 are legal (R64), which `Instr.WellFormed` checks. -/
  | apply (k : Fin 8) (f : Bool) (p : Fin 32)
  /-- `canon` (R126). -/
  | canon
  deriving DecidableEq, Repr

end Sys2Proof
end

