-- ==== Sys2Proof/Machine/State.lean ====
section
/-! DEFINITION. The machine's state (10_state.md), the host's accesses (20_memory.md), the reasons a step can stop, and
the state right after reset (70_reset_and_hazards.md R161). All plain data. -/

namespace Sys2Proof.Machine

/-- Eight 16-bit words in the fixed slot order (00_scope.md R9): a board state, or the register files W_IN and W_OUT. -/
structure Words where
  w0 : Mask
  w1 : Mask
  w2 : Mask
  w3 : Mask
  w4 : Mask
  w5 : Mask
  w6 : Mask
  w7 : Mask
  deriving DecidableEq, Repr

/-- The empty board: all eight words 0 (R21, R161). -/
def Words.zero : Words := ⟨0, 0, 0, 0, 0, 0, 0, 0⟩

/-- The STATUS register's fields (R27). READY is also the table state of R37 (BUILT exactly when READY = 1) and BUSY the
engine state (PENDING exactly when BUSY = 1): each is stored once, here. -/
structure Status where
  /-- Bit 0, READY (R28). -/
  ready : Bool
  /-- Bit 1, BUSY (R29). -/
  busy : Bool
  /-- Bit 2, DONE (R30). -/
  done : Bool
  /-- Bit 3, ERR (R31). -/
  err : Bool
  /-- Bits [7:4], ERRCODE (R31). -/
  errcode : BitVec 4
  /-- Bit 8, OVERRUN (R32). -/
  overrun : Bool
  deriving DecidableEq, Repr

/-- STATUS after reset: every field 0 (R27, R161). -/
def Status.reset : Status :=
  { ready := false, busy := false, done := false, err := false, errcode := 0, overrun := false }

/-- The permutation-table store PT (R36), the block's only memory: pairs of entry index 65536·k + m and entry, in the
canonical form `Memory.wf`. An index that is not listed reads as R82's value (entry 3 of the log). -/
abbrev Memory := List (Nat × Mask)

/-- The width of a host access (R42). -/
inductive Width where
  | w8
  | w16
  /-- The only width the block defines. -/
  | w32
  | w64
  deriving DecidableEq, Repr

/-- One thing the host does (R7, R171). Offsets are bytes from BPLE_BASE (R11). -/
inductive HostOp where
  /-- A read access (R42). -/
  | read (width : Width) (off : Nat)
  /-- A write access (R42). The value matters for the 32-bit width only; the others are refused. -/
  | write (width : Width) (off : Nat) (v : Word)
  /-- The host's loop on STATUS (R72): read STATUS, and again until the given bit is 1. -/
  | readUntil (bit : Fin 32)
  /-- The host asserts the reset input (R160, R171). -/
  | assertReset
  /-- The host releases the reset input (R160). -/
  | releaseReset
  /-- An access by a second bus master (R47): refused. -/
  | foreignAccess
  deriving DecidableEq, Repr

/-- The three agents (R7). -/
inductive Agent where
  | host
  | engine
  | builder
  deriving DecidableEq, Repr

/-- The machine: every register of R20, the table store of R36, the reset input of R160, and the model's own fields that
hold what the other agents will do. -/
structure State where
  /-- STATUS (R27), with the table and engine states of R37. -/
  status : Status
  /-- CMD (R33): the last accepted command word. -/
  cmd : Word
  /-- MASK_IN (R23). -/
  maskIn : Mask
  /-- MASK_OUT (R24). -/
  maskOut : Mask
  /-- KEYHDR (R25): VERSION in bits [7:0], FLAGS in bits [15:8]. -/
  keyhdr : BitVec 16
  /-- W_IN[0..7] (R21). -/
  wIn : Words
  /-- W_OUT[0..7] (R22). -/
  wOut : Words
  /-- PT (R36). -/
  pt : Memory
  /-- The reset input (R160): true while it is asserted. -/
  resetLine : Bool
  /-- The model's own: the host's accesses still to come, in program order (R48); entry 1. -/
  program : List HostOp
  /-- The model's own: which agents take the coming steps (R7); entry 2. -/
  schedule : List Agent
  /-- The model's own: the value the host's last read returned (R72); entry 12. -/
  readData : Word
  /-- The model's own: how many free values have been drawn (R49); entry 4. -/
  freeIndex : Nat
  /-- The parameters of R6 that a result can show; entry 5. -/
  params : Config.Params
  deriving DecidableEq, Repr

/-- The machine right after reset (R161), with the spec's default parameters. The spec gives no value for the table store,
the level of the reset input or the model's own fields: empty, released, and empty or 0, each a DESIGN CHOICE (entries 3, 7,
1, 2, 12 and 4). -/
def State.reset : State :=
  { status := Status.reset
    cmd := 0
    maskIn := 0
    maskOut := 0
    keyhdr := 0
    wIn := Words.zero
    wOut := Words.zero
    pt := []
    resetLine := false
    program := []
    schedule := []
    readData := 0
    freeIndex := 0
    params := Config.Params.default }

/-- Why the machine stops with a fault. Command errors are not faults: they are completions visible in STATUS (R145). -/
inductive Fault where
  /-- Raised by `step` in a state whose ERRCODE is 3..15, which is never produced (93_implementation_defined.md U14 asks
  for a fault). Safe: no state that meets `Legal` has it. -/
  | errcodeNeverProduced
  deriving DecidableEq, Repr

/-- Why a step is refused. No command is refused; only what the host does can be. -/
inductive Refusal where
  /-- The host's rejection by name of an instruction without a meaning. No arm of `exec` answers it. -/
  | notModelled (mnemonic : String)
  /-- Raised by a host access that is not an aligned 32-bit access inside the window (R42, U9). Safe: the spec gives it no
  step. -/
  | undefinedAccess
  /-- Raised by an access of a second bus master (R47, U10). Safe: the spec refuses such a model. -/
  | secondHost
  deriving DecidableEq, Repr

/-- A step's outcome. -/
abbrev Result := Host.Outcome State Fault Refusal

end Sys2Proof.Machine
end

