-- ==== Sys2Proof/Machine/Flags.lean ====
section
/-! DEFINITION. STATUS: its bus word (10_state.md R27) and every update of its fields the spec gives (R28 to R32,
60_exceptions.md R140, R145). -/

namespace Sys2Proof.Machine

/-- A flag as a 32-bit word with the flag at bit `n`. -/
def flagBit (b : Bool) (n : Nat) : Word := if b then 1#32 <<< n else 0#32

/-- The STATUS word the host reads (R27): bits [31:9] are 0. -/
def Status.word (st : Status) : Word :=
  flagBit st.ready 0 ||| flagBit st.busy 1 ||| flagBit st.done 2 ||| flagBit st.err 3
    ||| (st.errcode.zeroExtend 32 <<< 4) ||| flagBit st.overrun 8

/-- The two command errors (R140). -/
inductive CommandError where
  | illegalCmd
  | invalidState
  deriving DecidableEq, Repr

/-- code(E) (R140). -/
def CommandError.code : CommandError → BitVec 4
  | .illegalCmd => 1
  | .invalidState => 2

/-- What an accepted CMD write does to STATUS (R33): READY and OVERRUN stay. -/
def Status.accept (st : Status) : Status :=
  { st with busy := true, done := false, err := false, errcode := 0 }

/-- Completion of a command (R168): ERR and ERRCODE stay as the accepted write left them (R31). -/
def Status.complete (st : Status) : Status := { st with busy := false, done := true }

/-- Completion of a command that raised `e` (R145). -/
def Status.completeError (st : Status) (e : CommandError) : Status :=
  { st with busy := false, done := true, err := true, errcode := e.code }

/-- A host write was dropped because BUSY = 1 (R32). -/
def Status.setOverrun (st : Status) : Status := { st with overrun := true }

/-- A host write of `v` to STATUS (R32, R43): bit 8 = 1 clears OVERRUN, nothing else reacts. -/
def Status.hostWrite (st : Status) (v : Word) : Status :=
  if v.getLsbD 8 then { st with overrun := false } else st

/-- The Builder has made the tables available (R28, R162). -/
def Status.setReady (st : Status) : Status := { st with ready := true }

end Sys2Proof.Machine
end

