-- ==== Sys2Proof/WellFormed.lean ====
section
/-! DEFINITION. The one check an `Instr` term needs: APPLY's shape permutation index is 0..23 (30_encoding.md R64, R67). -/

namespace Sys2Proof

/-- The command is one of the 394 legal ones of R67: every operand is in range by its type, but for field S. -/
def Instr.WellFormed : Instr → Bool
  | .nop => true
  | .perm _ => true
  | .apply _ _ p => decide (p.val ≤ 23)
  | .canon => true

end Sys2Proof
end

