-- ==== Sys2Proof/Decode.lean ====
section
/-! DEFINITION. Command words: the fields of format CMDW (30_encoding.md R61), the decoder of R68, the encoder of R70,
and the byte lanes of a word (20_memory.md R46). -/

namespace Sys2Proof

/-- Field OP, bits [3:0] (R61). -/
def fieldOp (v : Word) : Nat := (v.extractLsb' 0 4).toNat

/-- Field T, bits [6:4]: the spatial transform id, zero-extended (R62). -/
def fieldT (v : Word) : Fin 8 := (v.extractLsb' 4 3).toFin

/-- Field X, bit 7: the colour-swap flag (R63). -/
def fieldX (v : Word) : Bool := v.getLsbD 7

/-- Field S, bits [12:8]: the shape permutation index, zero-extended (R64). -/
def fieldS (v : Word) : Fin 32 := (v.extractLsb' 8 5).toFin

/-- Why a word is no legal command (R68, R141). -/
inductive DecodeError where
  /-- OP is 0x4 to 0xF (R66, R69). -/
  | reservedOp (op : Nat)
  /-- A bit outside the operation's fields is set (R65). -/
  | strayBits
  /-- APPLY with S in 24..31 (R64). -/
  | noSuchPermutation (p : Nat)
  /-- Not the four bytes of one command word (R60). -/
  | notOneWord
  deriving DecidableEq, Repr

/-- What the decoder answers: a legal command, or the reason why there is none. -/
inductive Decoded where
  | ok (i : Instr)
  | error (e : DecodeError)
  deriving DecidableEq, Repr

/-- The decoder of R68: every one of the 2^32 words is a legal command or is rejected by name. -/
def decode (v : Word) : Decoded :=
  match fieldOp v with
  | 0 => if v.extractLsb' 4 28 = 0#28 then .ok .nop else .error .strayBits
  | 1 => if v.extractLsb' 7 25 = 0#25 then .ok (.perm (fieldT v)) else .error .strayBits
  | 2 =>
    if v.extractLsb' 13 19 = 0#19 then
      if (fieldS v).val ≤ 23 then .ok (.apply (fieldT v) (fieldX v) (fieldS v))
      else .error (.noSuchPermutation (fieldS v).val)
    else .error .strayBits
  | 3 => if v.extractLsb' 4 28 = 0#28 then .ok .canon else .error .strayBits
  | op => .error (.reservedOp op)

/-- The encoder of R70. -/
def encode : Instr → Word
  | .nop => 0x00000000#32
  | .perm k => 0x00000001#32 ||| (BitVec.ofNat 32 k.val <<< 4)
  | .apply k f p =>
    0x00000002#32 ||| (BitVec.ofNat 32 k.val <<< 4) ||| ((if f then 1#32 else 0#32) <<< 7)
      ||| (BitVec.ofNat 32 p.val <<< 8)
  | .canon => 0x00000003#32

/-- The bytes of a 32-bit register in lane order: lane n carries bits [8n+7:8n] (R46). -/
def lanes (v : Word) : List Byte :=
  [v.extractLsb' 0 8, v.extractLsb' 8 8, v.extractLsb' 16 8, v.extractLsb' 24 8]

/-- The register word whose lanes are the four given bytes (R46). -/
def ofLanes (b0 b1 b2 b3 : Byte) : Word :=
  b0.zeroExtend 32 ||| (b1.zeroExtend 32 <<< 8) ||| (b2.zeroExtend 32 <<< 16) ||| (b3.zeroExtend 32 <<< 24)

/-- The decoder on bytes, lane 0 first: a command is exactly one 32-bit word (R60, R46). Any other number of bytes is
rejected by name. -/
def decodeBytes : List Byte → Decoded
  | [b0, b1, b2, b3] => decode (ofLanes b0 b1 b2 b3)
  | _ => .error .notOneWord

/-- What the decoder reads from the instruction whose bits are `w`, numbered as spec/opcode_table.json numbers them;
bits from `nbits` on are 0. Bits above the one command word (R60) leave no instruction. -/
def decodeTableWord (nbits w : Nat) : Option Instr :=
  if w % 2 ^ nbits < 2 ^ 32 then
    match decodeBytes (lanes (BitVec.ofNat 32 (w % 2 ^ nbits))) with
    | .ok i => some i
    | .error _ => none
  else none

end Sys2Proof
end

