-- ==== Sys2Proof/Machine/Tables.lean ====
section
/-! DEFINITION. The eight square permutations and the permutation-table store (40_permutation.md R80 to R87,
10_state.md R36). -/

namespace Sys2Proof.Machine

/-- Row of a square (00_scope.md R8). -/
def rowOf (i : Nat) : Nat := i / 4

/-- Column of a square (R8). -/
def colOf (i : Nat) : Nat := i % 4

/-- The coordinate map (r, c) ↦ (r', c') of spatial transform `k` (R81). -/
def moveCoord (k : Fin 8) (r c : Nat) : Nat × Nat :=
  match k with
  | 0 => (r, c)
  | 1 => (c, 3 - r)
  | 2 => (3 - r, 3 - c)
  | 3 => (3 - c, r)
  | 4 => (r, 3 - c)
  | 5 => (3 - r, c)
  | 6 => (c, r)
  | 7 => (3 - c, 3 - r)

/-- P_k(i), the destination square of the piece on square `i` under transform `k` (R80, R81). -/
def destSquare (k : Fin 8) (i : Nat) : Nat :=
  4 * (moveCoord k (rowOf i) (colOf i)).1 + (moveCoord k (rowOf i) (colOf i)).2

/-- Or into `acc` the image bit of square `i`, when the mask holds that square (R82). -/
def scatterBit (k : Fin 8) (m acc : Mask) (i : Nat) : Mask :=
  if m.getLsbD i then acc ||| (1#16 <<< destSquare k i) else acc

/-- The bit-permuted image of mask `m` under transform `k` (R82): the value entry m of table k has once it is built. -/
def scatter (k : Fin 8) (m : Mask) : Mask :=
  (List.range 16).foldl (scatterBit k m) 0

/-- The index of entry `m` of table `k` in the store (R36, R40). -/
def entryIndex (k : Fin 8) (m : Mask) : Nat := 65536 * k.val + m.toNat

/-- The table number of a store index. -/
def indexTable (a : Nat) : Fin 8 := Fin.ofNat 8 (a / 65536)

/-- The entry number of a store index. -/
def indexMask (a : Nat) : Mask := BitVec.ofNat 16 a

/-- What an index of the store that is not listed reads as: the only contents the spec ever gives it (R82).
DESIGN CHOICE, entry 3. -/
def Memory.unlisted (a : Nat) : Mask := scatter (indexTable a) (indexMask a)

/-- Read the store at an index. -/
def Memory.readIndex (t : Memory) (a : Nat) : Mask :=
  match t with
  | [] => Memory.unlisted a
  | (b, v) :: rest => if b = a then v else Memory.readIndex rest a

/-- `TBL(k, m)` (R11): read entry `m` of permutation table `k`, the only memory read inside the block. -/
def Memory.read (t : Memory) (k : Fin 8) (m : Mask) : Mask := t.readIndex (entryIndex k m)

/-- Put one cell into the list at its place, or take the cell out when the value is what an unlisted index reads as. -/
def Memory.writeIndex (t : Memory) (a : Nat) (v : Mask) : Memory :=
  match t with
  | [] => if v = Memory.unlisted a then [] else [(a, v)]
  | (b, w) :: rest =>
    if a < b then
      if v = Memory.unlisted a then (b, w) :: rest else (a, v) :: (b, w) :: rest
    else if a = b then
      if v = Memory.unlisted a then rest else (a, v) :: rest
    else (b, w) :: Memory.writeIndex rest a v

/-- `PT[k][m] <- v`, which only the Builder does (R36). -/
def Memory.write (t : Memory) (k : Fin 8) (m v : Mask) : Memory := t.writeIndex (entryIndex k m) v

/-- Every listed index is above `lo`, in strictly rising order, inside the store, with an entry of its own. -/
def Memory.wfFrom (lo : Nat) : Memory → Bool
  | [] => true
  | (a, v) :: rest =>
    decide (lo ≤ a) && decide (a < 524288) && decide (v ≠ Memory.unlisted a) && Memory.wfFrom (a + 1) rest

/-- The store's canonical form: indices strictly rising and below 524288, no entry equal to what an unlisted index
reads as, so that equal stores are equal lists. -/
def Memory.wf (t : Memory) : Bool := Memory.wfFrom 0 t

/-- The store in which every entry holds its R82 value (R87, R162): nothing is listed. Sys2Proof/Laws/Tables.lean proves
that the Builder's 524288 writes of R162 leave exactly this. -/
def Memory.built : Memory := []

end Sys2Proof.Machine
end

