-- ==== Sys2Proof/Machine/Operands.lean ====
section
/-! DEFINITION. The operand forms of the commands: slots of a board state, the payload's bytes (20_memory.md R45), the
symmetry elements and their action (41_symmetry_apply.md R100 to R107). -/

namespace Sys2Proof.Machine

/-! ## Slots -/

/-- `W[j]`: the word in slot `j` (R9). -/
def Words.get (w : Words) (j : Fin 8) : Mask :=
  match j with
  | 0 => w.w0
  | 1 => w.w1
  | 2 => w.w2
  | 3 => w.w3
  | 4 => w.w4
  | 5 => w.w5
  | 6 => w.w6
  | 7 => w.w7

/-- `W[j] <- v`. -/
def Words.set (w : Words) (j : Fin 8) (v : Mask) : Words :=
  match j with
  | 0 => { w with w0 := v }
  | 1 => { w with w1 := v }
  | 2 => { w with w2 := v }
  | 3 => { w with w3 := v }
  | 4 => { w with w4 := v }
  | 5 => { w with w5 := v }
  | 6 => { w with w6 := v }
  | 7 => { w with w7 := v }

/-- The eight words in slot order. -/
def Words.toList (w : Words) : List Mask := [w.w0, w.w1, w.w2, w.w3, w.w4, w.w5, w.w6, w.w7]

/-- Slot number `4·col + shape` (R9). -/
def slot (c : Fin 2) (s : Fin 4) : Fin 8 := ⟨4 * c.val + s.val, by omega⟩

/-- The colour of a slot (R9). -/
def slotColor (j : Fin 8) : Fin 2 := ⟨j.val / 4, by omega⟩

/-- The shape of a slot (R9). -/
def slotShape (j : Fin 8) : Fin 4 := ⟨j.val % 4, by omega⟩

/-- The eight slots in the fixed order (R9). -/
def slots : List (Fin 8) := [0, 1, 2, 3, 4, 5, 6, 7]

/-- The union of the eight words: the occupied squares (the source's Occupancy; R109). -/
def Words.occupancy (w : Words) : Mask := w.toList.foldl (· ||| ·) 0

/-- Valid(W) (R107): the eight words are pairwise disjoint. -/
abbrev Valid (w : Words) : Prop := ∀ a b : Fin 8, a < b → w.get a &&& w.get b = 0#16

/-! ## Payload bytes -/

/-- ser(W) (R45): the 16-byte payload, each word's low byte first, in slot order. -/
def ser (w : Words) : List Byte :=
  w.toList.flatMap fun v => [v.extractLsb' 0 8, v.extractLsb' 8 8]

/-- Byte `i` of a payload; a payload has 16 bytes, and a byte past the end reads as 0. -/
def payloadByte (b : List Byte) (i : Nat) : Byte := (b[i]?).getD 0

/-- One word of `words(b)`: `zext_16(b[2j]) | (zext_16(b[2j+1]) << 8)` (R45). -/
def wordOfBytes (b : List Byte) (j : Nat) : Mask :=
  (payloadByte b (2 * j)).zeroExtend 16 ||| ((payloadByte b (2 * j + 1)).zeroExtend 16 <<< 8)

/-- words(b) (R45), the inverse of ser. -/
def words (b : List Byte) : Words :=
  ⟨wordOfBytes b 0, wordOfBytes b 1, wordOfBytes b 2, wordOfBytes b 3,
    wordOfBytes b 4, wordOfBytes b 5, wordOfBytes b 6, wordOfBytes b 7⟩

/-! ## Symmetry elements -/

/-- A symmetry element g = (k, f, p) (R100). -/
structure SymElem where
  /-- Spatial transform id. -/
  k : Fin 8
  /-- Colour-swap flag. -/
  f : Bool
  /-- Shape permutation index. -/
  p : Fin 24
  deriving DecidableEq, Repr

/-- The flattened index `48·k + 24·f + p` (R100). -/
def SymElem.idx (g : SymElem) : Nat := 48 * g.k.val + 24 * g.f.toNat + g.p.val

/-- The element whose flattened index is `n`, for n < 384 (R100). -/
def elemOfIdx (n : Nat) : SymElem := ⟨Fin.ofNat 8 (n / 48), decide (n / 24 % 2 = 1), Fin.ofNat 24 n⟩

/-- The eight spatial ids (R62). -/
def spatialIds : List (Fin 8) := [0, 1, 2, 3, 4, 5, 6, 7]

/-- The 24 shape permutation indices (R64). -/
def shapePermIds : List (Fin 24) := (List.range 24).map (Fin.ofNat 24)

/-- The 384 elements in flattened order: nested loops over k, then f, then p (R100). -/
def elements : List SymElem :=
  spatialIds.flatMap fun k => [false, true].flatMap fun f => shapePermIds.map fun p => ⟨k, f, p⟩

/-- The 24 rows of R101: Π[p](0), Π[p](1), Π[p](2), Π[p](3). -/
def shapePermTable : List (Fin 4 × Fin 4 × Fin 4 × Fin 4) :=
  [(0, 1, 2, 3), (0, 1, 3, 2), (0, 2, 1, 3), (0, 2, 3, 1), (0, 3, 1, 2), (0, 3, 2, 1),
   (1, 0, 2, 3), (1, 0, 3, 2), (1, 2, 0, 3), (1, 2, 3, 0), (1, 3, 0, 2), (1, 3, 2, 0),
   (2, 0, 1, 3), (2, 0, 3, 1), (2, 1, 0, 3), (2, 1, 3, 0), (2, 3, 0, 1), (2, 3, 1, 0),
   (3, 0, 1, 2), (3, 0, 2, 1), (3, 1, 0, 2), (3, 1, 2, 0), (3, 2, 0, 1), (3, 2, 1, 0)]

/-- Π[p](s) (R101). -/
def shapePerm (p : Fin 24) (s : Fin 4) : Fin 4 :=
  match shapePermTable[p.val]? with
  | none => s
  | some (a, b, c, d) =>
    match s with
    | 0 => a
    | 1 => b
    | 2 => c
    | 3 => d

/-- `c ⊕ f` (R103). -/
def swapColor (f : Bool) (c : Fin 2) : Fin 2 := if f then (if c = 0 then 1 else 0) else c

/-- The slot `4·(c ⊕ f) + Π[p](s)` to which the word of slot `4·c + s` moves (R104). -/
def destSlot (f : Bool) (p : Fin 24) (j : Fin 8) : Fin 8 :=
  slot (swapColor f (slotColor j)) (shapePerm p (slotShape j))

/-- One write of R104: `W'[4·(c ⊕ f) + Π[p](s)] <- TBL(k, W[4·c + s])`. -/
def actSlot (t : Memory) (k : Fin 8) (f : Bool) (p : Fin 24) (w out : Words) (j : Fin 8) : Words :=
  out.set (destSlot f p j) (t.read k (w.get j))

/-- Act(g, W) (R104): each word looked up in table k and moved to its slot. All eight slots are written, so the words it
starts from do not show. -/
def act (t : Memory) (g : SymElem) (w : Words) : Words :=
  match g with
  | ⟨k, f, p⟩ => slots.foldl (actSlot t k f p w) Words.zero

/-- The element of an APPLY command's fields, when field S selects a permutation (R64). -/
def elemOfFields (k : Fin 8) (f : Bool) (p : Fin 32) : Option SymElem :=
  if h : p.val < 24 then some ⟨k, f, ⟨p.val, h⟩⟩ else none

end Sys2Proof.Machine
end

