-- ==== Sys2Proof/Machine/Ops.lean ====
section
/-! DEFINITION. The named operations shared by the commands and the agents: completing a command, raising a command
error (the block's exception entry), accepting a command word (which also clears an error, its exception return), and
reset. -/

namespace Sys2Proof.Machine

/-! ## Single-field updates -/

/-- `MASK_OUT <- v` (R24, R89). -/
def setMaskOut (v : Mask) (s : State) : State := { s with maskOut := v }

/-- `MASK_IN <- v`, a host write (R23). -/
def setMaskIn (v : Mask) (s : State) : State := { s with maskIn := v }

/-- `W_IN <- w`, a host write of one of its words (R21). -/
def setWIn (w : Words) (s : State) : State := { s with wIn := w }

/-- A new STATUS, from a host write to it (R32). -/
def setStatus (st : Status) (s : State) : State := { s with status := st }

/-- The host receives the value of its read (R11). -/
def receive (v : Word) (s : State) : State := { s with readData := v }

/-- One free value has been drawn (R49). -/
def drawFree (s : State) : State := { s with freeIndex := s.freeIndex + 1 }

/-- The host goes on with the accesses `ops` (R48). -/
def setProgram (ops : List HostOp) (s : State) : State := { s with program := ops }

/-- The agents `l` take the coming steps (R7). -/
def setSchedule (l : List Agent) (s : State) : State := { s with schedule := l }

/-- The reset input (R160). -/
def setResetLine (b : Bool) (s : State) : State := { s with resetLine := b }

/-! ## Completion, errors, acceptance, reset -/

/-- The completion of R168: BUSY <- 0, DONE <- 1. -/
def complete (s : State) : State := { s with status := s.status.complete }

/-- Error completion (R145), the block's "trap entry": ERR, ERRCODE, BUSY and DONE are written, and no register outside
STATUS changes. Nothing else is saved; there is no vector and no mode. -/
def raiseError (e : CommandError) (s : State) : State := { s with status := s.status.completeError e }

/-- An accepted CMD write (R33): the word is stored as written and the command is pending. It is also what clears ERR and
ERRCODE (R146), the nearest thing the block has to a return from an error. -/
def acceptCommand (v : Word) (s : State) : State := { s with cmd := v, status := s.status.accept }

/-- A host write dropped because BUSY = 1 (R32, R143, R166): only OVERRUN changes. -/
def dropWrite (s : State) : State := { s with status := s.status.setOverrun }

/-- Every register takes its reset value and the table state becomes UNBUILT (R160, R161). What is not the block's own
stays: the reset input, the host's program, what it has read, the schedule, the parameters and the model's counter. -/
def resetRegisters (s : State) : State :=
  { s with
    status := Status.reset
    cmd := 0
    maskIn := 0
    maskOut := 0
    keyhdr := 0
    wIn := Words.zero
    wOut := Words.zero
    pt := [] }

/-- While the reset input is asserted every register takes its reset value (R160). -/
def holdReset (s : State) : State := if s.resetLine then resetRegisters s else s

/-- The key header of an APPLY result (R108, R127): VERSION = 1, FLAGS = 0x00. -/
def rawKeyHeader : BitVec 16 := 0x0001

/-- The key header of a CANON result (R126, R127): `KEY_VERSION | (CANON_FLAG_MASK << 8)`. -/
def canonKeyHeader (p : Config.Params) : BitVec 16 :=
  Config.keyVersion.zeroExtend 16 ||| (p.canonFlag.mask.zeroExtend 16 <<< 8)

/-- The 18-byte key `KEYHDR[7:0] ++ KEYHDR[15:8] ++ ser(W_OUT)` (R25, R45). -/
def keyBytes (s : State) : List Byte :=
  [s.keyhdr.extractLsb' 0 8, s.keyhdr.extractLsb' 8 8] ++ ser s.wOut

/-- Write a result state and its key header (R22, R25). -/
def writeResult (w : Words) (hdr : BitVec 16) (s : State) : State := { s with wOut := w, keyhdr := hdr }

end Sys2Proof.Machine
end

