-- ==== Sys2Proof/Machine/Bus.lean ====
section
/-! DEFINITION. The register window (20_memory.md R40 to R49): which register an offset names, and what a host read or
write of it does. -/

namespace Sys2Proof.Machine

/-- The registers of the window (R20, R41). -/
inductive Reg where
  | cap
  | status
  | cmd
  | maskIn
  | maskOut
  | keyhdr
  | wIn (j : Fin 8)
  | wOut (j : Fin 8)
  /-- A reserved offset: reads 0, writes ignored (R43). -/
  | reserved
  deriving DecidableEq, Repr

/-- The access is one the block defines: 32 bits wide, at a multiple of 4, inside the window (R42). -/
def accessDefined (w : Width) (off : Nat) : Bool :=
  decide (w = .w32) && decide (off % 4 = 0) && decide (off < 0x100)

/-- The register at a byte offset (R41). -/
def regAt (off : Nat) : Reg :=
  if off = 0x00 then .cap
  else if off = 0x04 then .status
  else if off = 0x08 then .cmd
  else if off = 0x10 then .maskIn
  else if off = 0x14 then .maskOut
  else if off = 0x18 then .keyhdr
  else if 0x20 ≤ off ∧ off < 0x40 then .wIn (Fin.ofNat 8 ((off - 0x20) / 4))
  else if 0x40 ≤ off ∧ off < 0x60 then .wOut (Fin.ofNat 8 ((off - 0x40) / 4))
  else .reserved

/-- CAP's constant (R26): KEY_VERSION, N_SPATIAL and N_SPERM in bytes 0, 1 and 2. -/
def capWord : Word :=
  Config.keyVersion.zeroExtend 32 ||| (BitVec.ofNat 32 Config.nSpatial <<< 8) ||| (BitVec.ofNat 32 Config.nSperm <<< 16)

/-- The word a register holds (R20), its upper bits 0 (R43). -/
def readReg (s : State) : Reg → Word
  | .cap => capWord
  | .status => s.status.word
  | .cmd => s.cmd
  | .maskIn => s.maskIn.zeroExtend 32
  | .maskOut => s.maskOut.zeroExtend 32
  | .keyhdr => s.keyhdr.zeroExtend 32
  | .wIn j => (s.wIn.get j).zeroExtend 32
  | .wOut j => (s.wOut.get j).zeroExtend 32
  | .reserved => 0

/-- The result registers, whose reads are free while a command is pending (R49). -/
def Reg.isResult : Reg → Bool
  | .maskOut => true
  | .keyhdr => true
  | .wOut _ => true
  | _ => false

/-- BusRead(off) (R11, R44, R49): the host gets the register's word, or, from a result register while BUSY = 1, the next
free value in bits [15:0]. No register changes. -/
def busRead (off : Nat) (s : State) : State :=
  if s.status.busy && (regAt off).isResult then
    drawFree (receive ((Config.freeRead s.freeIndex).zeroExtend 32) s)
  else receive (readReg s (regAt off)) s

/-- BusWrite(off, v) (R11, R33, R43, R44). A write to CMD, MASK_IN or W_IN[j] is dropped while BUSY = 1 (R32, R143);
MASK_IN and W_IN[j] keep the low 16 bits; read-only registers and reserved offsets ignore writes. -/
def busWrite (off : Nat) (v : Word) (s : State) : State :=
  match regAt off with
  | .status => setStatus (s.status.hostWrite v) s
  | .cmd => if s.status.busy then dropWrite s else acceptCommand v s
  | .maskIn => if s.status.busy then dropWrite s else setMaskIn (v.extractLsb' 0 16) s
  | .wIn j => if s.status.busy then dropWrite s else setWIn (s.wIn.set j (v.extractLsb' 0 16)) s
  | .cap => s
  | .maskOut => s
  | .keyhdr => s
  | .wOut _ => s
  | .reserved => s

/-- The byte offset of STATUS (R41), which the host's loops read (R72). -/
def statusOffset : Nat := 0x04

end Sys2Proof.Machine
end

