-- ==== Sys2Proof/Machine/Canon.lean ====
section
/-! DEFINITION. The comparator tree and the command of 42_canonicalize.md: CANON (R120 to R127). -/

namespace Sys2Proof.Machine

/-- cand(g, W) (R120): the serialised image of the state under one element. -/
def cand (t : Memory) (w : Words) (g : SymElem) : List Byte := ser (act t g w)

/-- The comparator order (R121): the first byte that differs decides, as an unsigned value. Both sequences have 16 bytes;
where one has run out nothing is smaller. -/
def lexlt : List Byte → List Byte → Bool
  | a :: as, b :: bs => if a = b then lexlt as bs else decide (a < b)
  | _, _ => false

/-- A comparator node (R122). -/
def min2 (a b : List Byte) : List Byte := if lexlt b a then b else a

/-- A reduction of candidates by min2, in the order they come (R123: any order gives the same). -/
def reduce (first : List Byte) (rest : List (List Byte)) : List Byte := rest.foldl min2 first

/-- canon(W) (R123, R126): the reduction of all 384 candidates, the identity's first. -/
def canonPayload (t : Memory) (w : Words) : List Byte :=
  reduce (cand t w ⟨0, false, 0⟩) ((elements.drop 1).map (cand t w))

/-- `canon` (R126): W_IN must be valid (R142); then the words of the canonical payload and the canonical key header are
written. -/
def execCanon (s : State) : Result :=
  if Valid s.wIn then
    .next (complete (writeResult (words (canonPayload s.pt s.wIn)) (canonKeyHeader s.params) s))
  else .next (raiseError .invalidState s)

end Sys2Proof.Machine
end

