-- ==== Sys2Proof/Machine/Lookup.lean ====
section
/-! DEFINITION. The commands of 40_permutation.md: NOP (R88) and PERM (R89). -/

namespace Sys2Proof.Machine

/-- `nop` (R88): completion only. -/
def execNop (s : State) : Result := .next (complete s)

/-- `perm t` (R89): MASK_OUT <- TBL(k, MASK_IN). -/
def execPerm (k : Fin 8) (s : State) : Result :=
  .next (complete (setMaskOut (s.pt.read k s.maskIn) s))

end Sys2Proof.Machine
end

