-- ==== Sys2Proof/Machine/Symmetry.lean ====
section
/-! DEFINITION. The command of 41_symmetry_apply.md: APPLY (R108). -/

namespace Sys2Proof.Machine

/-- `apply t, x, s` (R108). S in 24..31 is ILLEGAL_CMD, checked first (R144); then W_IN must be valid (R142); then the
image and the raw key header are written. -/
def execApply (k : Fin 8) (f : Bool) (p : Fin 32) (s : State) : Result :=
  match elemOfFields k f p with
  | none => .next (raiseError .illegalCmd s)
  | some g =>
    if Valid s.wIn then .next (complete (writeResult (act s.pt g s.wIn) rawKeyHeader s))
    else .next (raiseError .invalidState s)

end Sys2Proof.Machine
end

