-- ==== Sys2Proof/Machine/Dispatch.lean ====
section
/-! DEFINITION. One arm per command (30_encoding.md R66). -/

namespace Sys2Proof.Machine

def exec (i : Instr) (s : State) : Host.Outcome State Fault Refusal :=
  match i with
  | .nop => Sys2Proof.Machine.execNop s
  | .perm k => Sys2Proof.Machine.execPerm k s
  | .apply k f p => Sys2Proof.Machine.execApply k f p s
  | .canon => Sys2Proof.Machine.execCanon s

end Sys2Proof.Machine
end

