-- ==== Sys2Proof/Machine/Agents.lean ====
section
/-! DEFINITION. What each of the three agents does with a step of its own (00_scope.md R7): the Builder (R162), the
Engine (R168) and the Host (R48, R72, R160). -/

namespace Sys2Proof.Machine

/-- The Builder has a step: the tables are UNBUILT and reset is released (R162). -/
def builderEnabled (s : State) : Bool := !s.status.ready && !s.resetLine

/-- The Builder's step (R162): every entry of PT takes its R82 value, and READY becomes 1. -/
def builderStep (s : State) : State := { s with pt := Memory.built, status := s.status.setReady }

/-- The Engine has a step: a command is PENDING and READY = 1 (R163, R168). -/
def engineEnabled (s : State) : Bool := s.status.busy && s.status.ready

/-- The Engine's step (R168): decode CMD and run the command, or complete with ILLEGAL_CMD (R141). -/
def engineStep (s : State) : Result :=
  match decode s.cmd with
  | .ok i => exec i s
  | .error _ => .next (raiseError .illegalCmd s)

/-- The host takes its next access (R48), with `s` the state it finds. A loop on STATUS stays at the head of the program
until its bit reads 1 (R72; DESIGN CHOICE, entry 20). While reset is asserted a write leaves every register at its reset
value (R160; DESIGN CHOICE, entry 7). Releasing the asserted reset input gives every register its reset value once more
(R160); releasing an input that is already released changes no register and abandons no command, a case R160 does not speak
of (DESIGN CHOICE, entry 21). -/
def hostStep (s : State) : Result :=
  match s.program with
  | [] => .next s
  | .read w off :: rest =>
    if accessDefined w off then .next (setProgram rest (busRead off s)) else .refused .undefinedAccess
  | .write w off v :: rest =>
    if accessDefined w off then .next (setProgram rest (if s.resetLine then s else busWrite off v s))
    else .refused .undefinedAccess
  | .readUntil bit :: rest =>
    .next (if s.status.word.getLsbD bit.val then setProgram rest (busRead statusOffset s) else busRead statusOffset s)
  | .assertReset :: rest => .next (setProgram rest (setResetLine true (resetRegisters s)))
  | .releaseReset :: rest => .next (setProgram rest (setResetLine false (holdReset s)))
  | .foreignAccess :: _ => .refused .secondHost

/-- One step of a named agent. An agent with nothing enabled lets its turn pass (DESIGN CHOICE, entry 15). -/
def agentStep (a : Agent) (s : State) : Result :=
  match a with
  | .host => hostStep s
  | .engine => if engineEnabled s then engineStep s else .next s
  | .builder => if builderEnabled s then .next (builderStep s) else .next s

/-- Who moves when the schedule names nobody: an enabled Builder, else an enabled Engine, else the Host. This order is the
weak fairness of R162 and R168 (DESIGN CHOICE, entry 2). -/
def defaultAgent (s : State) : Agent :=
  if builderEnabled s then .builder else if engineEnabled s then .engine else .host

/-- The agent that takes the coming step (R7): the one the schedule names next, or the default one. -/
def nextAgent (s : State) : Agent :=
  match s.schedule with
  | [] => defaultAgent s
  | a :: _ => a

/-- The coming turn (R7), in a state whose reset input has been looked at: the agent moves and its turn is taken off the
schedule. -/
def turn (s : State) : Result := agentStep (nextAgent s) (setSchedule s.schedule.tail s)

/-- ERRCODE holds a value that is never produced (R27, U14). -/
def errcodeBad (s : State) : Bool := decide (2 < s.status.errcode.toNat)

/-- An accepted command word waiting for an Engine whose tables are built, so that the next step runs it: what a host's
CMD write and the Builder's step leave (R33, R162). DESIGN CHOICE, entry 9. -/
def withPending (v : Word) (s : State) : State :=
  { s with
    cmd := v
    status := s.status.accept.setReady
    pt := Memory.built
    resetLine := false
    schedule := [] }

end Sys2Proof.Machine
end

