-- ==== Sys2Proof/Machine/Step.lean ====
section
/-! DEFINITION. The machine's one step (00_scope.md R7). -/

namespace Sys2Proof.Machine

/-- One step of one agent. While reset is asserted the registers take their reset values first (R160); a state whose
ERRCODE is never produced is a fault (U14). -/
def step (s : State) : Host.Outcome State Fault Refusal :=
  if errcodeBad s then .fault .errcodeNeverProduced else turn (holdReset s)

/-- `s` with the command word of `nbits` bits `w` accepted into CMD and the tables built, so that the next step is the
Engine running it. Entry 9 says how a command comes to run from reset. -/
def State.withFetchWord (s : State) (nbits w : Nat) : State :=
  withPending (BitVec.ofNat 32 (w % 2 ^ nbits)) s

end Sys2Proof.Machine
end

