-- ==== Sys2Proof/Machine/Assembler.lean ====
section
/-! DEFINITION. Command and host program text (30_encoding.md R71, R72): operands of the four commands, symbolic offsets,
and the expansions of the pseudo-instructions. No step of the machine depends on it. -/

namespace Sys2Proof.Machine

/-- The value a text stands for in a list of texts and values; `none` for any other text, which an assembler rejects. -/
def lookupText {α : Type} (table : List (String × α)) (text : String) : Option α :=
  match table with
  | [] => none
  | (t, v) :: rest => if t == text then some v else lookupText rest text

/-- `<t>` (R71): a number 0..7 or a transform name of R81. -/
def asmTransform (text : String) : Option (Fin 8) :=
  lookupText
    [("0", 0), ("1", 1), ("2", 2), ("3", 3), ("4", 4), ("5", 5), ("6", 6), ("7", 7),
     ("id", 0), ("r90", 1), ("r180", 2), ("r270", 3), ("fh", 4), ("fv", 5), ("td", 6), ("ta", 7)] text

/-- `<x>` (R71): 0 or 1, or `keep` or `swap`. -/
def asmSwap (text : String) : Option Bool :=
  lookupText [("0", false), ("1", true), ("keep", false), ("swap", true)] text

/-- The name of a shape as a digit. -/
def shapeDigit (s : Fin 4) : String :=
  match s with
  | 0 => "0"
  | 1 => "1"
  | 2 => "2"
  | 3 => "3"

/-- `p` followed by the four digits of Π[p] (R71). -/
def shapePermName (p : Fin 24) : String :=
  "p" ++ shapeDigit (shapePerm p 0) ++ shapeDigit (shapePerm p 1) ++ shapeDigit (shapePerm p 2)
    ++ shapeDigit (shapePerm p 3)

/-- The decimal numbers 0 to 23, in order; how a number is written is entry 13's choice. -/
def shapePermNumbers : List String :=
  ["0", "1", "2", "3", "4", "5", "6", "7", "8", "9", "10", "11",
   "12", "13", "14", "15", "16", "17", "18", "19", "20", "21", "22", "23"]

/-- `<s>` (R71): a number 0..23 or a name such as `p3210`. -/
def asmShape (text : String) : Option (Fin 24) :=
  lookupText (shapePermNumbers.zip shapePermIds ++ shapePermIds.map fun p => (shapePermName p, p)) text

/-- One command line (R71), its mnemonic and its operands already separated; `none` where an assembler rejects it. -/
def assemble (mnemonic : String) (operands : List String) : Option Instr :=
  match operands with
  | [] => lookupText [("nop", Instr.nop), ("canon", Instr.canon)] mnemonic
  | [t] => if mnemonic == "perm" then (asmTransform t).map Instr.perm else none
  | [t, x, s] =>
    if mnemonic == "apply" then
      match asmTransform t, asmSwap x, asmShape s with
      | some k, some f, some p => some (.apply k f (p.castLE (by decide)))
      | _, _, _ => none
    else none
  | _ => none

/-- The byte offset of a register (R41); the first reserved offset stands for the reserved ones. -/
def regOffset : Reg → Nat
  | .cap => 0x00
  | .status => 0x04
  | .cmd => 0x08
  | .reserved => 0x0C
  | .maskIn => 0x10
  | .maskOut => 0x14
  | .keyhdr => 0x18
  | .wIn j => 0x20 + 4 * j.val
  | .wOut j => 0x40 + 4 * j.val

/-- The symbolic offsets of R72. -/
def asmOffset (text : String) : Option Nat :=
  lookupText
    [("CAP", 0x00), ("STATUS", 0x04), ("CMD", 0x08), ("MASK_IN", 0x10), ("MASK_OUT", 0x14), ("KEYHDR", 0x18),
     ("W_IN0", 0x20), ("W_IN1", 0x24), ("W_IN2", 0x28), ("W_IN3", 0x2C),
     ("W_IN4", 0x30), ("W_IN5", 0x34), ("W_IN6", 0x38), ("W_IN7", 0x3C),
     ("W_OUT0", 0x40), ("W_OUT1", 0x44), ("W_OUT2", 0x48), ("W_OUT3", 0x4C),
     ("W_OUT4", 0x50), ("W_OUT5", 0x54), ("W_OUT6", 0x58), ("W_OUT7", 0x5C)] text

/-- `wr off, value` (R72). -/
def hostWr (off : Nat) (v : Word) : HostOp := .write .w32 off v

/-- `rd off` (R72). -/
def hostRd (off : Nat) : HostOp := .read .w32 off

/-- `cmd .word v` (R72). -/
def hostCmdWord (v : Word) : List HostOp := [hostWr (regOffset .cmd) v]

/-- `cmd <command>` (R72). -/
def hostCmd (i : Instr) : List HostOp := hostCmdWord (encode i)

/-- `poll` (R72): read STATUS until bit 2, DONE. -/
def hostPoll : List HostOp := [.readUntil 2]

/-- `waitready` (R72): read STATUS until bit 0, READY. -/
def hostWaitready : List HostOp := [.readUntil 0]

/-- `ldstate w0,…,w7` (R72), with `w j` the operand for slot j. R72 gives the operands no width: here each is any 32-bit
value, as `wr` takes it, of which W_IN[j] keeps the low 16 bits (R43). DEDUCED, entry 22. -/
def hostLdstate (w : Fin 8 → Word) : List HostOp := slots.map fun j => hostWr (regOffset (.wIn j)) (w j)

/-- `rdout` (R72). -/
def hostRdout : List HostOp := slots.map fun j => hostRd (regOffset (.wOut j))

/-- `clrovr` (R72). -/
def hostClrovr : List HostOp := [hostWr (regOffset .status) 0x00000100]

end Sys2Proof.Machine
end

