-- ==== Sys2Proof/Machine/Group.lean ====
section
/-! DEFINITION. The group tables the spec derives from the permutations (40_permutation.md R84, R85) and the comparator
trees 42_canonicalize.md R123 and R124 speak of. No step of the machine depends on them. -/

namespace Sys2Proof.Machine

/-- The table C of R84, row a, column b: transform a and then transform b. -/
def composeTable : List (List (Fin 8)) :=
  [[0, 1, 2, 3, 4, 5, 6, 7],
   [1, 2, 3, 0, 6, 7, 5, 4],
   [2, 3, 0, 1, 5, 4, 7, 6],
   [3, 0, 1, 2, 7, 6, 4, 5],
   [4, 7, 5, 6, 0, 2, 3, 1],
   [5, 6, 4, 7, 2, 0, 1, 3],
   [6, 4, 7, 5, 1, 3, 0, 2],
   [7, 5, 6, 4, 3, 1, 2, 0]]

/-- C[a][b] (R84). -/
def composeSpatial (a b : Fin 8) : Fin 8 := ((composeTable[a.val]?).getD [])[b.val]?.getD 0

/-- inv(k) (R85). -/
def invSpatial (k : Fin 8) : Fin 8 :=
  match k with
  | 1 => 3
  | 3 => 1
  | k => k

/-- A tree of comparator nodes whose leaf `n` holds the candidate of the element with flattened index n (R123, R124). -/
inductive CmpTree where
  | leaf (n : Nat)
  | node (l r : CmpTree)
  deriving DecidableEq, Repr

/-- The candidate that comes out of the root (R122). -/
def CmpTree.eval (t : Memory) (w : Words) : CmpTree → List Byte
  | .leaf n => cand t w (elemOfIdx n)
  | .node l r => min2 (l.eval t w) (r.eval t w)

/-- The leaves, left to right. -/
def CmpTree.leaves : CmpTree → List Nat
  | .leaf n => [n]
  | .node l r => l.leaves ++ r.leaves

/-- The number of min2 nodes. -/
def CmpTree.nodes : CmpTree → Nat
  | .leaf _ => 0
  | .node l r => l.nodes + r.nodes + 1

/-- The number of levels of nodes. -/
def CmpTree.levels : CmpTree → Nat
  | .leaf _ => 0
  | .node l r => max l.levels r.levels + 1

/-- The balanced tree over the `n` leaves from `lo` (R124), by halving at most `fuel` times. -/
def CmpTree.balanced (fuel lo n : Nat) : CmpTree :=
  match fuel with
  | 0 => .leaf lo
  | fuel + 1 =>
    if n ≤ 1 then .leaf lo
    else .node (CmpTree.balanced fuel lo (n - n / 2)) (CmpTree.balanced fuel (lo + (n - n / 2)) (n / 2))

/-- `c` is the least of a family of candidates, one for each element: one of them, with none below it (R123). -/
def LeastOf (c : List Byte) (cands : SymElem → List Byte) : Prop :=
  (∃ g, cands g = c) ∧ ∀ g, lexlt (cands g) c = false

/-- N(a) (R121): the payload as one 128-bit unsigned number, byte 0 the most significant. -/
def payloadNumber (a : List Byte) : Nat :=
  ((List.range 16).map fun i => (payloadByte a i).toNat * 256 ^ (15 - i)).sum

/-- Π[p] as a four-digit number, so that lexicographic order of the tuples of R101 is order of numbers. -/
def shapePermNumber (p : Fin 24) : Nat :=
  1000 * (shapePerm p 0).val + 100 * (shapePerm p 1).val + 10 * (shapePerm p 2).val + (shapePerm p 3).val

/-- The number of set bits of a mask (00_scope.md R10). -/
def popcount (m : Mask) : Nat := ((List.range 16).filter fun i => m.getLsbD i).length

/-- The pieces of a state: the sum of its words' set bits (R130). -/
def pieces (w : Words) : Nat := (w.toList.map popcount).sum

end Sys2Proof.Machine
end

