-- ==== Sys2Proof/Safety.lean ====
section
/-! DEFINITION. What counts as a legal state and a safe, finished run, in the terms the statements use (10_state.md R27,
R37; 70_reset_and_hazards.md R160, R170). -/

namespace Sys2Proof.Machine

/-- The legal values of STATUS (R27). -/
structure StatusLegal (st : Status) : Prop where
  /-- BUSY and DONE are never both 1. -/
  busy_done : ¬ (st.busy = true ∧ st.done = true)
  /-- ERR = 1 only when DONE = 1. -/
  err_done : st.err = true → st.done = true
  /-- ERRCODE ≠ 0 exactly when ERR = 1. -/
  errcode_err : st.errcode ≠ 0 ↔ st.err = true
  /-- ERRCODE 3..15 are never produced. -/
  errcode_le : st.errcode.toNat ≤ 2

/-- Once READY = 1 every entry of PT reads as R82 says (R36, R53, R87). -/
def TablesHold (s : State) : Prop :=
  s.status.ready = true → ∀ (k : Fin 8) (m : Mask), s.pt.read k m = scatter k m

/-- A key header the block can hold (R25): none since reset, APPLY's, or CANON's. -/
def KeyHeaderLegal (s : State) : Prop :=
  s.keyhdr = 0 ∨ s.keyhdr = rawKeyHeader ∨ s.keyhdr = canonKeyHeader s.params

/-- The states the block can be in: an invariant of every step, from every state that has it. -/
structure Legal (s : State) : Prop where
  /-- R27. -/
  status : StatusLegal s.status
  /-- R36, R53. -/
  tables : TablesHold s
  /-- The store is in its canonical form. -/
  memory : s.pt.wf = true
  /-- While reset is asserted every register has its reset value (R160). -/
  held : s.resetLine = true → resetRegisters s = s
  /-- R25. -/
  keyhdr : KeyHeaderLegal s
  /-- The result words are pairwise disjoint: they are the image of a valid state, or the empty board (R107, R109). -/
  result : Valid s.wOut
  /-- VERSION 0 means that no key has been produced since reset (R25), so W_OUT is still the empty board. -/
  noKey : s.keyhdr = 0 → s.wOut = Words.zero

/-- The host has made its last access and the Engine is IDLE (R170). -/
def Finished (s : State) : Prop := s.program = [] ∧ s.status.busy = false

/-- The final observation (R170): the registers of R20, as 32-bit reads, in offset order. -/
def observation (s : State) : List Word :=
  [readReg s .cap, readReg s .status, readReg s .cmd, readReg s .maskIn, readReg s .maskOut, readReg s .keyhdr]
    ++ slots.map (fun j => readReg s (.wIn j)) ++ slots.map (fun j => readReg s (.wOut j))

/-- No register of R20 differs, whatever the tables hold and the host and the schedule are about to do. -/
def SameWindow (s t : State) : Prop :=
  s.status = t.status ∧ s.cmd = t.cmd ∧ s.maskIn = t.maskIn ∧ s.maskOut = t.maskOut ∧ s.keyhdr = t.keyhdr
    ∧ s.wIn = t.wIn ∧ s.wOut = t.wOut

/-- No register of the block differs, nor the table store (R20, R36). -/
def SameRegisters (s t : State) : Prop := SameWindow s t ∧ s.pt = t.pt

/-- The coming step is the Host's, and it performs `op` (reset released; with nobody scheduled, by entry 2's order). -/
def HostTakes (s : State) (op : HostOp) : Prop := nextAgent s = .host ∧ ∃ ops, s.program = op :: ops

/-- The host operations of one host that never touch the reset input and make only accesses the block defines
(R42, R47). -/
def PlainOp : HostOp → Bool
  | .read w off => accessDefined w off
  | .write w off _ => accessDefined w off
  | .readUntil _ => true
  | .assertReset => false
  | .releaseReset => false
  | .foreignAccess => false

end Sys2Proof.Machine
end

