-- ==== Sys2Proof/Certificates/Slice0/Obligations.lean ====
section
/-! DEFINITION. The statements for the provers, from the numbered rules of spec/. Each is about every state or every
operand it names; none is about a program. -/

open Sys2Proof Sys2Proof.Machine

/-! ## Command words (30_encoding.md) -/

/-- R70: the words of the encoder (written as sums; the fields do not overlap), decode(enc(c)) = c, enc injective, and the
rule's examples. -/
def Obligations.DecodeAfterEncodeAgrees : Prop :=
  (∀ i : Instr, i.WellFormed = true → decode (encode i) = .ok i)
  ∧ (∀ i j : Instr, i.WellFormed = true → j.WellFormed = true → encode i = encode j → i = j)
  ∧ (encode .nop).toNat = 0
  ∧ (∀ k, (encode (.perm k)).toNat = 1 + 16 * k.val)
  ∧ (∀ k f p, (encode (.apply k f p)).toNat = 2 + 16 * k.val + 128 * f.toNat + 256 * p.val)
  ∧ (encode .canon).toNat = 3
  ∧ encode (.perm 1) = 0x00000011#32 ∧ encode (.apply 1 true 23) = 0x00001792#32
  ∧ encode (.apply 7 true 23) = 0x000017F2#32
  ∧ (∀ k f p, p.val ≤ 23 → (encode (.apply k f p)).toNat ≤ 0x000017F2)

/-- The other direction (R67, R70): a word that decodes is the word its command is encoded as, and its command is legal.
Read as bytes in lane order (entry 17: the model's choice) it decodes alike. -/
def Obligations.DecodedWordIsItsEncoding : Prop :=
  ∀ (v : Word) (i : Instr), decode v = .ok i → i.WellFormed = true ∧ encode i = v ∧ decodeBytes (lanes v) = .ok i

/-- R67: a word decodes to a row's command exactly when it matches the row's mask and the row's condition holds; the rows
do not overlap; there are 8 PERM words, 384 APPLY words, one word for each of the other two, 394 in all. -/
def Obligations.LegalWordsMatchTheirRow : Prop :=
  (∀ v : Word,
    (decode v = .ok .nop ↔ v &&& 0xFFFFFFFF#32 = 0x00000000#32)
    ∧ (∀ k, decode v = .ok (.perm k) ↔ v &&& 0xFFFFFF8F#32 = 0x00000001#32 ∧ v.toNat / 16 % 8 = k.val)
    ∧ (∀ k f p, decode v = .ok (.apply k f p) ↔
        v &&& 0xFFFFE00F#32 = 0x00000002#32 ∧ v.toNat / 16 % 8 = k.val ∧ v.getLsbD 7 = f
          ∧ v.toNat / 256 % 32 = p.val ∧ p.val ≤ 23)
    ∧ (decode v = .ok .canon ↔ v &&& 0xFFFFFFFF#32 = 0x00000003#32)
    ∧ ¬ (v &&& 0xFFFFFFFF#32 = 0x00000000#32 ∧ v &&& 0xFFFFFF8F#32 = 0x00000001#32)
    ∧ ¬ (v &&& 0xFFFFFFFF#32 = 0x00000000#32 ∧ v &&& 0xFFFFE00F#32 = 0x00000002#32)
    ∧ ¬ (v &&& 0xFFFFFFFF#32 = 0x00000003#32 ∧ v &&& 0xFFFFFF8F#32 = 0x00000001#32)
    ∧ ¬ (v &&& 0xFFFFFFFF#32 = 0x00000003#32 ∧ v &&& 0xFFFFE00F#32 = 0x00000002#32)
    ∧ ¬ (v &&& 0xFFFFFF8F#32 = 0x00000001#32 ∧ v &&& 0xFFFFE00F#32 = 0x00000002#32)
    ∧ ¬ (v &&& 0xFFFFFFFF#32 = 0x00000000#32 ∧ v &&& 0xFFFFFFFF#32 = 0x00000003#32))
  ∧ (∃ l : List Word, l.Nodup ∧ l.length = 8 ∧ ∀ v, v ∈ l ↔ ∃ k, decode v = .ok (.perm k))
  ∧ (∃ l : List Word, l.Nodup ∧ l.length = 384 ∧ ∀ v, v ∈ l ↔ ∃ k f p, decode v = .ok (.apply k f p))
  ∧ (∃ l : List Word, l.Nodup ∧ l.length = 394 ∧ ∀ v, v ∈ l ↔ ∃ i, decode v = .ok i)

/-- A few words of 95_test_vectors.md L2-D, read from R61's bit fields. -/
def Obligations.SpecWordsDecode : Prop :=
  decode 0x00000000#32 = .ok .nop ∧ decode 0x00000071#32 = .ok (.perm 7)
  ∧ decode 0x00001792#32 = .ok (.apply 1 true 23) ∧ decode 0x00000003#32 = .ok .canon
  ∧ decode 0x00000010#32 = .error .strayBits ∧ decode 0x00000081#32 = .error .strayBits
  ∧ decode 0x00001802#32 = .error (.noSuchPermutation 24) ∧ decode 0x00002002#32 = .error .strayBits
  ∧ decode 0x80000003#32 = .error .strayBits ∧ decode 0xFFFFFFFF#32 = .error (.reservedOp 15)

/-- R71: the lines the assembler accepts, the command each stands for, and that it rejects every other; a line it accepts is
a legal command, so it cannot express an illegal word. How the text is split and numbers are written is entry 13's choice. -/
def Obligations.AssemblerWritesOnlyLegalWords : Prop :=
  let transforms : List (String × Fin 8) :=
    [("0", 0), ("1", 1), ("2", 2), ("3", 3), ("4", 4), ("5", 5), ("6", 6), ("7", 7),
     ("id", 0), ("r90", 1), ("r180", 2), ("r270", 3), ("fh", 4), ("fv", 5), ("td", 6), ("ta", 7)]
  let swaps : List (String × Bool) := [("0", false), ("1", true), ("swap", true), ("keep", false)]
  let shapes : List (String × Fin 32) :=
    [("0", 0), ("1", 1), ("2", 2), ("3", 3), ("4", 4), ("5", 5), ("6", 6), ("7", 7), ("8", 8), ("9", 9), ("10", 10),
     ("11", 11), ("12", 12), ("13", 13), ("14", 14), ("15", 15), ("16", 16), ("17", 17), ("18", 18), ("19", 19),
     ("20", 20), ("21", 21), ("22", 22), ("23", 23), ("p0123", 0), ("p0132", 1), ("p0213", 2), ("p0231", 3),
     ("p0312", 4), ("p0321", 5), ("p1023", 6), ("p1032", 7), ("p1203", 8), ("p1230", 9), ("p1302", 10),
     ("p1320", 11), ("p2013", 12), ("p2031", 13), ("p2103", 14), ("p2130", 15), ("p2301", 16), ("p2310", 17),
     ("p3012", 18), ("p3021", 19), ("p3102", 20), ("p3120", 21), ("p3201", 22), ("p3210", 23)]
  (∀ (mnemonic : String) (operands : List String) (i : Instr), assemble mnemonic operands = some i ↔
    (mnemonic = "nop" ∧ operands = [] ∧ i = .nop)
    ∨ (∃ t k, (t, k) ∈ transforms ∧ mnemonic = "perm" ∧ operands = [t] ∧ i = .perm k)
    ∨ (∃ t k x f s p, (t, k) ∈ transforms ∧ (x, f) ∈ swaps ∧ (s, p) ∈ shapes
        ∧ mnemonic = "apply" ∧ operands = [t, x, s] ∧ i = .apply k f p)
    ∨ (mnemonic = "canon" ∧ operands = [] ∧ i = .canon))
  ∧ (∀ (mnemonic : String) (operands : List String) (i : Instr),
      assemble mnemonic operands = some i → i.WellFormed = true ∧ decode (encode i) = .ok i)

/-! ## The permutation tables (40_permutation.md) -/

/-- R81: the coordinate formulas, the eight lists, and the names of the ids in command text. -/
def Obligations.SquarePermutationsAreTheSpecs : Prop :=
  (∀ r c : Fin 4,
    destSquare 0 (4 * r.val + c.val) = 4 * r.val + c.val
    ∧ destSquare 1 (4 * r.val + c.val) = 4 * c.val + (3 - r.val)
    ∧ destSquare 2 (4 * r.val + c.val) = 4 * (3 - r.val) + (3 - c.val)
    ∧ destSquare 3 (4 * r.val + c.val) = 4 * (3 - c.val) + r.val
    ∧ destSquare 4 (4 * r.val + c.val) = 4 * r.val + (3 - c.val)
    ∧ destSquare 5 (4 * r.val + c.val) = 4 * (3 - r.val) + c.val
    ∧ destSquare 6 (4 * r.val + c.val) = 4 * c.val + r.val
    ∧ destSquare 7 (4 * r.val + c.val) = 4 * (3 - c.val) + (3 - r.val))
  ∧ (List.range 16).map (destSquare 0) = [0, 1, 2, 3, 4, 5, 6, 7, 8, 9, 10, 11, 12, 13, 14, 15]
  ∧ (List.range 16).map (destSquare 1) = [3, 7, 11, 15, 2, 6, 10, 14, 1, 5, 9, 13, 0, 4, 8, 12]
  ∧ (List.range 16).map (destSquare 2) = [15, 14, 13, 12, 11, 10, 9, 8, 7, 6, 5, 4, 3, 2, 1, 0]
  ∧ (List.range 16).map (destSquare 3) = [12, 8, 4, 0, 13, 9, 5, 1, 14, 10, 6, 2, 15, 11, 7, 3]
  ∧ (List.range 16).map (destSquare 4) = [3, 2, 1, 0, 7, 6, 5, 4, 11, 10, 9, 8, 15, 14, 13, 12]
  ∧ (List.range 16).map (destSquare 5) = [12, 13, 14, 15, 8, 9, 10, 11, 4, 5, 6, 7, 0, 1, 2, 3]
  ∧ (List.range 16).map (destSquare 6) = [0, 4, 8, 12, 1, 5, 9, 13, 2, 6, 10, 14, 3, 7, 11, 15]
  ∧ (List.range 16).map (destSquare 7) = [15, 11, 7, 3, 14, 10, 6, 2, 13, 9, 5, 1, 12, 8, 4, 0]
  ∧ ["id", "r90", "r180", "r270", "fh", "fv", "td", "ta"].map asmTransform = spatialIds.map some

/-- R82: with the tables built, bit P_k(i) of every entry is bit i of its mask, which fixes all sixteen bits. -/
def Obligations.TableEntryIsTheBitPermutation : Prop :=
  ∀ s : State, TablesHold s → s.status.ready = true → ∀ (k : Fin 8) (m : Mask),
    (∀ i, i < 16 → (s.pt.read k m).getLsbD (destSquare k i) = m.getLsbD i)
    ∧ s.pt.read k m
        = ((List.range 16).filter fun i => m.getLsbD i).foldl (fun acc i => acc ||| (1#16 <<< destSquare k i)) 0#16

/-- R83: what every built table satisfies. -/
def Obligations.EveryTableKeepsMaskStructure : Prop :=
  ∀ s : State, TablesHold s → s.status.ready = true → ∀ k : Fin 8,
    (∀ a b, s.pt.read k a = s.pt.read k b → a = b) ∧ (∀ b, ∃ a, s.pt.read k a = b)
    ∧ (∀ m, popcount (s.pt.read k m) = popcount m)
    ∧ (∀ a b, s.pt.read k (a ||| b) = s.pt.read k a ||| s.pt.read k b)
    ∧ (∀ a b, s.pt.read k (a &&& b) = s.pt.read k a &&& s.pt.read k b)
    ∧ (∀ m, s.pt.read k (~~~m) = ~~~(s.pt.read k m))
    ∧ s.pt.read k 0x0000#16 = 0x0000#16 ∧ s.pt.read k 0xFFFF#16 = 0xFFFF#16
    ∧ (∀ m, s.pt.read 0 m = m)
    ∧ (∀ a b, a &&& b = 0#16 → s.pt.read k a &&& s.pt.read k b = 0#16)
    ∧ (∀ m ∈ [0x000F#16, 0x00F0#16, 0x0F00#16, 0xF000#16, 0x1111#16, 0x2222#16, 0x4444#16, 0x8888#16],
        s.pt.read k m ∈ [0x000F#16, 0x00F0#16, 0x0F00#16, 0xF000#16, 0x1111#16, 0x2222#16, 0x4444#16, 0x8888#16])
    ∧ (∀ m ∈ [0x0033#16, 0x00CC#16, 0x3300#16, 0xCC00#16],
        s.pt.read k m ∈ [0x0033#16, 0x00CC#16, 0x3300#16, 0xCC00#16])
    ∧ s.pt.read k 0x0660#16 = 0x0660#16 ∧ s.pt.read k 0x9009#16 = 0x9009#16

/-- R84: transform a and then transform b is transform C[a][b], on every mask; C is the table of a group of order 8 (the
eight tables differ), and the dihedral one: transform 1 has order 4, transform 4 order 2, and 4·1·4 is 1 inverted. -/
def Obligations.TablesComposeByTheGroupTable : Prop :=
  (∀ s : State, TablesHold s → s.status.ready = true → ∀ (a b : Fin 8) (m : Mask),
    s.pt.read b (s.pt.read a m) = s.pt.read (composeSpatial a b) m)
  ∧ (∀ s : State, TablesHold s → s.status.ready = true → ∀ a b : Fin 8,
    (∀ m, s.pt.read a m = s.pt.read b m) → a = b)
  ∧ (∀ a b c, composeSpatial (composeSpatial a b) c = composeSpatial a (composeSpatial b c))
  ∧ (∀ a, composeSpatial 0 a = a ∧ composeSpatial a 0 = a)
  ∧ (∀ a, ∃ b, composeSpatial a b = 0 ∧ composeSpatial b a = 0)
  ∧ composeSpatial 1 1 = 2 ∧ composeSpatial 2 2 = 0 ∧ composeSpatial 4 4 = 0
  ∧ composeSpatial (composeSpatial 4 1) 4 = invSpatial 1
  ∧ (List.map (fun a => spatialIds.map (composeSpatial a)) spatialIds
      = [[0, 1, 2, 3, 4, 5, 6, 7], [1, 2, 3, 0, 6, 7, 5, 4], [2, 3, 0, 1, 5, 4, 7, 6], [3, 0, 1, 2, 7, 6, 4, 5],
         [4, 7, 5, 6, 0, 2, 3, 1], [5, 6, 4, 7, 2, 0, 1, 3], [6, 4, 7, 5, 1, 3, 0, 2], [7, 5, 6, 4, 3, 1, 2, 0]])

/-- R85: the inverse transforms. -/
def Obligations.InverseTableUndoesTheTable : Prop :=
  (∀ s : State, TablesHold s → s.status.ready = true → ∀ (k : Fin 8) (m : Mask),
    s.pt.read (invSpatial k) (s.pt.read k m) = m)
  ∧ invSpatial 1 = 3 ∧ invSpatial 3 = 1 ∧ ∀ k : Fin 8, k = 0 ∨ k = 2 ∨ 4 ≤ k → invSpatial k = k

/-! ## The commands: results, frames and errors -/

/-- R88: NOP completes and changes nothing else; its word is 0 and no other word with OP = 0 is legal; accepted before
READY it waits; from reset and READY an accepted NOP ends with STATUS = 5. That NOP's meaning completes also from a state with
READY = 0 or BUSY = 0 is entry 10's choice; that the Engine's turn changes nothing while READY is 0 (its turn passes) is
entry 15's. -/
def Obligations.NopOnlyCompletes : Prop :=
  (∀ s : State, exec .nop s = .next { s with status := { s.status with busy := false, done := true } })
  ∧ encode .nop = 0x00000000#32
  ∧ (∀ v : Word, v.toNat % 16 = 0 → v ≠ 0 → ∃ e, decode v = .error e)
  ∧ (∀ s : State, s.status.ready = false → agentStep .engine s = .next s)
  ∧ (∃ t, exec .nop (acceptCommand (encode .nop) (builderStep State.reset)) = .next t
      ∧ t.status.word = 0x00000005#32)

/-- R89: PERM writes MASK_OUT with MASK_IN's image under table k and completes; nothing else changes, and ERR and ERRCODE
stay as they were. Bits [31:7] must be zero. -/
def Obligations.PermWritesTheImage : Prop :=
  (∀ (k : Fin 8) (s : State), TablesHold s → s.status.ready = true →
    ∃ t, exec (.perm k) s = .next t
      ∧ (∀ i, i < 16 → t.maskOut.getLsbD (destSquare k i) = s.maskIn.getLsbD i)
      ∧ t = { s with maskOut := t.maskOut, status := { s.status with busy := false, done := true } }
      ∧ (k = 0 → t.maskOut = s.maskIn)
      ∧ (s.maskIn = 0x0000#16 → t.maskOut = 0x0000#16) ∧ (s.maskIn = 0xFFFF#16 → t.maskOut = 0xFFFF#16)
      ∧ (k = 1 → s.maskIn = 0x000F#16 → t.maskOut = 0x8888#16))
  ∧ (∀ k, (encode (.perm k)).toNat = 1 + 16 * k.val)
  ∧ (∀ v : Word, v.toNat % 16 = 1 → v.toNat / 128 ≠ 0 → ∃ e, decode v = .error e)

/-- PERM's completion in every state, whatever the table store holds: MASK_OUT is the entry that is read (R11, R89).
That it completes even before READY is entry 10's choice. -/
def Obligations.PermReadsOneEntry : Prop :=
  ∀ (k : Fin 8) (s : State),
    exec (.perm k) s
      = .next { s with maskOut := s.pt.read k s.maskIn, status := { s.status with busy := false, done := true } }

/-- R104, R108: APPLY of a legal element to a valid state completes. The word of slot 4c + s stands, bit-permuted, in slot
4(c ⊕ f) + Π[p](s) of W_OUT; KEYHDR is 1; nothing else changes. -/
def Obligations.ApplyWritesTheImage : Prop :=
  ∀ (k : Fin 8) (f : Bool) (p : Fin 24) (s : State),
    TablesHold s → s.status.ready = true → Valid s.wIn →
    ∃ t, exec (.apply k f (p.castLE (by decide))) s = .next t
      ∧ (∀ (c : Fin 2) (h : Fin 4) (i : Nat), i < 16 →
          (t.wOut.get (slot (swapColor f c) (shapePerm p h))).getLsbD (destSquare k i)
            = (s.wIn.get (slot c h)).getLsbD i)
      ∧ t = { s with wOut := t.wOut, keyhdr := 0x0001#16,
                     status := { s.status with busy := false, done := true } }
      ∧ (k = 0 → f = false → p = 0 → t.wOut = s.wIn)
      ∧ (s.wIn = Words.zero → t.wOut = Words.zero)

/-- R123, R126: CANON of a valid state completes, whatever it is. W_OUT's payload is the candidate of some element and no
element's candidate is below it; KEYHDR holds VERSION 1 and CANON_FLAG_MASK; nothing else changes. -/
def Obligations.CanonWritesTheLeastCandidate : Prop :=
  ∀ s : State, Valid s.wIn →
    ∃ t, exec .canon s = .next t
      ∧ (∃ g, ser t.wOut = cand s.pt s.wIn g)
      ∧ (∀ g, lexlt (cand s.pt s.wIn g) (ser t.wOut) = false)
      ∧ t.keyhdr.toNat = 1 + 256 * s.params.canonFlag.mask.toNat
      ∧ t = { s with wOut := t.wOut, keyhdr := t.keyhdr,
                     status := { s.status with busy := false, done := true } }

/-- R127: the key after a successful CANON is version 1, CANON_FLAG_MASK (0x02 by default, 0x01 otherwise) and the
payload of W_OUT; after a successful APPLY the header is version 1 with no flag. -/
def Obligations.KeyHeadersAfterResults : Prop :=
  (∀ s t : State, Valid s.wIn → exec .canon s = .next t →
    keyBytes t = [0x01#8, s.params.canonFlag.mask] ++ ser t.wOut ∧ (keyBytes t).length = 18
      ∧ t.keyhdr.extractLsb' 0 8 = 0x01#8 ∧ t.keyhdr.extractLsb' 8 8 = s.params.canonFlag.mask)
  ∧ (∀ (k : Fin 8) (f : Bool) (p : Fin 32) (s t : State), Valid s.wIn → p.val ≤ 23 →
      exec (.apply k f p) s = .next t → t.keyhdr = 0x0001#16)
  ∧ Config.Params.default.canonFlag.mask = 0x02#8 ∧ Config.CanonFlag.bit0.mask = 0x01#8

/-- R142: a W_IN with a square in two words makes APPLY and CANON end in INVALID_STATE, with no change outside STATUS;
NOP and PERM never raise it. -/
def Obligations.OverlappingInputIsReported : Prop :=
  (∀ w : Words, ¬ Valid w ↔ ∃ a b : Fin 8, a < b ∧ ∃ i, i < 16 ∧ (w.get a).getLsbD i = true ∧ (w.get b).getLsbD i = true)
  ∧ (∀ s : State, ¬ Valid s.wIn →
      (∀ (k : Fin 8) (f : Bool) (p : Fin 32), p.val ≤ 23 →
        exec (.apply k f p) s
          = .next { s with status := { s.status with busy := false, done := true, err := true, errcode := 2 } })
      ∧ exec .canon s
          = .next { s with status := { s.status with busy := false, done := true, err := true, errcode := 2 } })
  ∧ (∀ (s t : State) (k : Fin 8), exec .nop s = .next t ∨ exec (.perm k) s = .next t →
      t.status.err = s.status.err ∧ t.status.errcode = s.status.errcode)

/-- R141: the Engine runs a word the decoder rejects, and so reports ILLEGAL_CMD, exactly when OP is 4..15, or a bit
outside the operation's fields is set, or OP = 2 and S ≥ 24; nothing outside STATUS changes and no data register is
looked at. -/
def Obligations.IllegalWordIsReported : Prop :=
  (∀ v : Word, (∃ e, decode v = .error e) ↔
    4 ≤ v.toNat % 16 ∨ ((v.toNat % 16 = 0 ∨ v.toNat % 16 = 3) ∧ v.toNat / 16 ≠ 0)
      ∨ (v.toNat % 16 = 1 ∧ v.toNat / 128 ≠ 0) ∨ (v.toNat % 16 = 2 ∧ v.toNat / 8192 ≠ 0)
      ∨ (v.toNat % 16 = 2 ∧ 24 ≤ v.toNat / 256 % 32))
  ∧ (∀ (s : State) (e : DecodeError), s.status.busy = true → s.status.ready = true → decode s.cmd = .error e →
      agentStep .engine s
        = .next { s with status := { s.status with busy := false, done := true, err := true, errcode := 1 } })

/-- R144: one error at most, ILLEGAL_CMD first: an illegal word, and APPLY with S ≥ 24, report it even when W_IN is not
valid. OVERRUN is independent: a write dropped during a command changes nothing else in how that command ends, and no
command changes OVERRUN. That APPLY of a term with S ≥ 24, which no word decodes to, reports ILLEGAL_CMD is entry 11's
reading; that the Engine's turn answers a next state also when it has no step (its turn passes) is entry 15's choice. -/
def Obligations.IllegalWordWinsOverInvalidState : Prop :=
  (∀ (s : State) (e : DecodeError), s.status.busy = true → s.status.ready = true → decode s.cmd = .error e →
      ¬ Valid s.wIn → ∃ t, agentStep .engine s = .next t ∧ t.status.err = true ∧ t.status.errcode = 1)
  ∧ (∀ (k : Fin 8) (f : Bool) (p : Fin 32) (s : State), 24 ≤ p.val → ¬ Valid s.wIn →
      exec (.apply k f p) s
        = .next { s with status := { s.status with busy := false, done := true, err := true, errcode := 1 } })
  ∧ (∀ s : State, ∃ t, agentStep .engine s = .next t ∧ t.status.overrun = s.status.overrun
      ∧ agentStep .engine (dropWrite s) = .next (dropWrite t))

/-- R38: what each command writes, on success and on error, and which inputs its results do not depend on; an illegal word
writes STATUS alone. -/
def Obligations.CommandsWriteOnlyTheirRegisters : Prop :=
  (∀ (i : Instr) (s t : State), exec i s = .next t →
    t.wIn = s.wIn ∧ t.maskIn = s.maskIn ∧ t.cmd = s.cmd ∧ (∀ k m, t.pt.read k m = s.pt.read k m)
    ∧ t.resetLine = s.resetLine ∧ t.program = s.program ∧ t.schedule = s.schedule ∧ t.readData = s.readData
    ∧ t.freeIndex = s.freeIndex ∧ t.params = s.params
    ∧ t.status.ready = s.status.ready ∧ t.status.overrun = s.status.overrun
    ∧ t.status.busy = false ∧ t.status.done = true
    ∧ ((∀ k, i ≠ .perm k) → t.maskOut = s.maskOut)
    ∧ (i = .nop ∨ (∃ k, i = .perm k) → t.wOut = s.wOut ∧ t.keyhdr = s.keyhdr)
    ∧ (s.status.err = false → t.status.err = true →
        t.maskOut = s.maskOut ∧ t.wOut = s.wOut ∧ t.keyhdr = s.keyhdr))
  ∧ (∀ (s : State) (w : Words) (m : Mask) (k : Fin 8) (t u : State),
      (∀ p : Memory, exec .nop s = .next t → exec .nop { s with wIn := w, maskIn := m, pt := p } = .next u →
        u = { t with wIn := w, maskIn := m, pt := p })
      ∧ (exec (.perm k) s = .next t → exec (.perm k) { s with wIn := w } = .next u → u = { t with wIn := w }))
  ∧ (∀ (i : Instr) (s : State) (m : Mask) (t u : State), (∀ k, i ≠ .perm k) →
      exec i s = .next t → exec i { s with maskIn := m } = .next u → u = { t with maskIn := m })
  ∧ (∀ (s t : State) (e : DecodeError), decode s.cmd = .error e → agentStep .engine s = .next t →
      t = { s with status := t.status })

/-- R126: the result of CANON is a function of W_IN (and the parameter) alone: not of earlier results, CMD or STATUS. -/
def Obligations.CanonDependsOnInputAlone : Prop :=
  ∀ s u t v : State, TablesHold s → TablesHold u → s.status.ready = true → u.status.ready = true →
    s.wIn = u.wIn → s.params = u.params → Valid s.wIn → exec .canon s = .next t → exec .canon u = .next v →
    t.wOut = v.wOut ∧ t.keyhdr = v.keyhdr

/-! ## Payloads and the comparator (20_memory.md R45, 42_canonicalize.md) -/

/-- R45: the payload's bytes, ser and words inverse to each other, and the 18-byte record. -/
def Obligations.SerAndWordsAreInverse : Prop :=
  (∀ w : Words, (ser w).length = 16 ∧ words (ser w) = w
    ∧ ∀ j : Fin 8, payloadByte (ser w) (2 * j.val) = (w.get j).extractLsb' 0 8
        ∧ payloadByte (ser w) (2 * j.val + 1) = (w.get j).extractLsb' 8 8)
  ∧ (∀ b : List Byte, b.length = 16 → ser (words b) = b)
  ∧ (∀ b : List Byte, ∀ j : Fin 8,
      ((words b).get j).toNat = (payloadByte b (2 * j.val)).toNat + 256 * (payloadByte b (2 * j.val + 1)).toNat)
  ∧ (∀ s : State, keyBytes s = s.keyhdr.extractLsb' 0 8 :: s.keyhdr.extractLsb' 8 8 :: ser s.wOut)

/-- R121: the comparator order in the rule's three readings, and that it is a strict total order on 16-byte sequences. -/
def Obligations.ByteOrderIsStrictTotal : Prop :=
  (∀ a b : List Byte, a.length = 16 → b.length = 16 →
    (lexlt a b = true ↔
      ∃ i, i < 16 ∧ payloadByte a i < payloadByte b i ∧ ∀ h, h < i → payloadByte a h = payloadByte b h)
    ∧ (lexlt a b = true ↔ payloadNumber a < payloadNumber b)
    ∧ lexlt a a = false
    ∧ (lexlt a b = true ∨ a = b ∨ lexlt b a = true))
  ∧ (∀ a b c : List Byte, a.length = 16 → b.length = 16 → c.length = 16 →
      lexlt a b = true → lexlt b c = true → lexlt a c = true)
  ∧ (∀ w u : Words, w.get 0 = 0x0100#16 → u.get 0 = 0x0001#16 → lexlt (ser w) (ser u) = true)

/-- R122, R123: min2 is associative, commutative and idempotent, and every tree of min2 nodes over all 384 candidates, in
any arrangement, gives CANON's payload, the only candidate with none below it. -/
def Obligations.EveryComparatorTreeGivesThePayload : Prop :=
  (∀ a b c : List Byte, a.length = 16 → b.length = 16 → c.length = 16 →
    min2 (min2 a b) c = min2 a (min2 b c) ∧ min2 a b = min2 b a ∧ min2 a a = a)
  ∧ (∀ (t : Memory) (w : Words),
      LeastOf (canonPayload t w) (cand t w)
      ∧ (∀ c, LeastOf c (cand t w) → c = canonPayload t w)
      ∧ (∀ tree : CmpTree, (∀ n, n ∈ tree.leaves ↔ n < 384) → tree.eval t w = canonPayload t w))

/-- R124: the balanced tree of 383 nodes in 9 levels is one structure that meets R123. -/
def Obligations.BalancedTreeGivesThePayload : Prop :=
  (CmpTree.balanced 9 0 384).leaves = List.range 384 ∧ (CmpTree.balanced 9 0 384).nodes = 383
  ∧ (CmpTree.balanced 9 0 384).levels = 9
  ∧ ∀ (t : Memory) (w : Words), (CmpTree.balanced 9 0 384).eval t w = canonPayload t w

/-- R128: orbit invariance, of the payload and of the commands: APPLY any element, copy W_OUT to W_IN, and CANON gives the
W_OUT that CANON gives on the original state. -/
def Obligations.CanonIsOrbitInvariant : Prop :=
  (∀ s : State, TablesHold s → s.status.ready = true → ∀ (g : SymElem) (w : Words), Valid w →
    canonPayload s.pt (act s.pt g w) = canonPayload s.pt w)
  ∧ (∀ (s t u v : State) (k : Fin 8) (f : Bool) (p : Fin 32), TablesHold s → s.status.ready = true → Valid s.wIn →
      p.val ≤ 23 → exec (.apply k f p) s = .next t → exec .canon s = .next u →
      exec .canon { t with wIn := t.wOut } = .next v → v.wOut = u.wOut)

/-- R129: the payload is below or equal to every candidate, is a valid state of the orbit, and CANON run again on its own
result gives the same result. -/
def Obligations.CanonIsMinimalAndIdempotent : Prop :=
  (∀ s : State, TablesHold s → s.status.ready = true → ∀ w : Words, Valid w →
    (∀ g, lexlt (cand s.pt w g) (canonPayload s.pt w) = false)
    ∧ Valid (words (canonPayload s.pt w)) ∧ (∃ g, words (canonPayload s.pt w) = act s.pt g w)
    ∧ canonPayload s.pt (words (canonPayload s.pt w)) = canonPayload s.pt w)
  ∧ (∀ s t u : State, TablesHold s → s.status.ready = true → Valid s.wIn → exec .canon s = .next t →
      exec .canon { t with wIn := t.wOut } = .next u → u.wOut = t.wOut ∧ u.status.err = t.status.err)

/-- R130: the canonical state has the pieces of the state, word by word up to order, and its occupancy is the image of the
state's occupancy under an element that reaches the minimum. -/
def Obligations.CanonKeepsPiecesAndOccupancy : Prop :=
  ∀ s : State, TablesHold s → s.status.ready = true → ∀ w : Words, Valid w →
    pieces (words (canonPayload s.pt w)) = pieces w
    ∧ ((words (canonPayload s.pt w)).toList.map popcount).Perm (w.toList.map popcount)
    ∧ ∃ g, cand s.pt w g = canonPayload s.pt w
        ∧ (words (canonPayload s.pt w)).occupancy = s.pt.read g.k w.occupancy

/-- R131, its four changes: other ids for the eight permutations, inverse permutations, other numbers for the shape
permutations, the other relabel direction. Each gives the same least candidate. -/
def Obligations.CanonIgnoresNumberingConventions : Prop :=
  ∀ s : State, TablesHold s → s.status.ready = true → ∀ w : Words,
    (∀ σ : Fin 8 → Fin 8, (∀ k, ∃ k', σ k' = k) →
      LeastOf (canonPayload s.pt w) fun g => cand s.pt w ⟨σ g.k, g.f, g.p⟩)
    ∧ (∀ τ : Fin 24 → Fin 24, (∀ p, ∃ p', τ p' = p) →
      LeastOf (canonPayload s.pt w) fun g => cand s.pt w ⟨g.k, g.f, τ g.p⟩)
    ∧ (∀ img : SymElem → Words,
        (∀ (g : SymElem) (c : Fin 2) (h : Fin 4) (i : Nat), i < 16 →
          ((img g).get (slot (swapColor g.f c) (shapePerm g.p h))).getLsbD i
            = (w.get (slot c h)).getLsbD (destSquare g.k i)) →
        LeastOf (canonPayload s.pt w) fun g => ser (img g))
    ∧ (∀ img : SymElem → Words,
        (∀ (g : SymElem) (c : Fin 2) (h : Fin 4),
          (img g).get (slot (swapColor g.f c) h) = s.pt.read g.k (w.get (slot c (shapePerm g.p h)))) →
        LeastOf (canonPayload s.pt w) fun g => ser (img g))

/-! ## Symmetry elements (41_symmetry_apply.md) -/

/-- R100: the flattened index numbers the 384 elements from 0 to 383. -/
def Obligations.ElementIndexIsOneToOne : Prop :=
  (∀ g : SymElem, g.idx = 48 * g.k.val + 24 * g.f.toNat + g.p.val ∧ g.idx < 384 ∧ elemOfIdx g.idx = g)
  ∧ (∀ n, n < 384 → (elemOfIdx n).idx = n)
  ∧ elements.map SymElem.idx = List.range 384

/-- R101: the 24 permutations of four labels, each once, in lexicographic order. -/
def Obligations.ShapePermutationsInOrder : Prop :=
  (∀ p q : Fin 24, p < q ↔ shapePermNumber p < shapePermNumber q)
  ∧ (∀ (p : Fin 24) (a b : Fin 4), shapePerm p a = shapePerm p b → a = b)
  ∧ (∀ π : Fin 4 → Fin 4, (∀ a b, π a = π b → a = b) → ∃ p, ∀ s, shapePerm p s = π s)
  ∧ (∀ s, shapePerm 0 s = s) ∧ (∀ s, (shapePerm 23 s).val = 3 - s.val)
  ∧ shapePermNumber 3 = 231

/-- R102, R103, R105: the shape part moves shape h to Π[p](h) in both colours, the colour part exchanges the colour blocks
when f = 1 and leaves them when f = 0, and the spatial, colour and shape parts, one after another in any of the six orders,
are the element. -/
def Obligations.ElementPartsCommute : Prop :=
  ∀ s : State, TablesHold s → s.status.ready = true → ∀ (k : Fin 8) (f : Bool) (p : Fin 24) (w : Words),
    let sp := act s.pt ⟨k, false, 0⟩
    let cs := act s.pt ⟨0, f, 0⟩
    let sh := act s.pt ⟨0, false, p⟩
    let g := act s.pt ⟨k, f, p⟩ w
    sh (cs (sp w)) = g ∧ cs (sh (sp w)) = g ∧ sh (sp (cs w)) = g ∧ sp (sh (cs w)) = g ∧ cs (sp (sh w)) = g
      ∧ sp (cs (sh w)) = g
      ∧ (∀ (c : Fin 2) (h : Fin 4), (sh w).get (slot c (shapePerm p h)) = w.get (slot c h))
      ∧ (f = true → ∀ (c : Fin 2) (h : Fin 4), (cs w).get (slot (1 - c) h) = w.get (slot c h))
      ∧ (f = false → cs w = w)

/-- R106: the group law, the identity, the inverses, and one orbit for all its states. -/
def Obligations.ElementsActAsAGroup : Prop :=
  (∀ p q : Fin 24, ∃ r : Fin 24, ∀ h, shapePerm r h = shapePerm q (shapePerm p h))
  ∧ (∀ p : Fin 24, ∃ q : Fin 24, ∀ h, shapePerm q (shapePerm p h) = h)
  ∧ (∀ s : State, TablesHold s → s.status.ready = true →
      (∀ (g₁ g₂ : SymElem) (q : Fin 24) (w : Words), (∀ h, shapePerm q h = shapePerm g₂.p (shapePerm g₁.p h)) →
        act s.pt g₂ (act s.pt g₁ w) = act s.pt ⟨composeSpatial g₁.k g₂.k, g₁.f ^^ g₂.f, q⟩ w)
      ∧ (∀ w, act s.pt ⟨0, false, 0⟩ w = w)
      ∧ (∀ (g : SymElem) (q : Fin 24) (w : Words), (∀ h, shapePerm q (shapePerm g.p h) = h) →
        act s.pt ⟨invSpatial g.k, g.f, q⟩ (act s.pt g w) = w)
      ∧ (∀ (g : SymElem) (w v : Words), (∃ h, act s.pt h (act s.pt g w) = v) ↔ ∃ h, act s.pt h w = v))

/-- R107, its second form: the words are disjoint exactly when the union has as many squares as the words together. -/
def Obligations.ValidByCountingSquares : Prop :=
  ∀ w : Words, Valid w ↔ popcount w.occupancy = pieces w

/-- R104, R109: one table for all eight words, the word of slot 4c + h moved to slot 4(c ⊕ f) + Π[p](h), a bijection of the
slots, disjointness kept, occupancy mapped by the table. -/
def Obligations.ActionMovesWholeLanes : Prop :=
  ∀ s : State, TablesHold s → s.status.ready = true → ∀ (g : SymElem) (w : Words),
    (∀ (c : Fin 2) (h : Fin 4) (j : Fin 8), j.val = 4 * (c.val ^^^ g.f.toNat) + (shapePerm g.p h).val →
        (act s.pt g w).get j = s.pt.read g.k (w.get (slot c h)))
    ∧ (∀ j, (act s.pt g w).get (destSlot g.f g.p j) = s.pt.read g.k (w.get j))
    ∧ (∀ i : Fin 8, ∃ j, destSlot g.f g.p j = i ∧ ∀ j', destSlot g.f g.p j' = i → j' = j)
    ∧ (Valid w → Valid (act s.pt g w))
    ∧ (act s.pt g w).occupancy = s.pt.read g.k w.occupancy

/-! ## The register window (10_state.md, 20_memory.md) -/

/-- R161: the registers right after reset, and those reset leaves from any state. -/
def Obligations.ResetValuesOfEveryRegister : Prop :=
  observation State.reset = 0x00180801#32 :: List.replicate 21 0x00000000#32
  ∧ State.reset.status = Status.reset
  ∧ (∀ s : State, SameWindow (resetRegisters s) State.reset
      ∧ observation (resetRegisters s) = observation State.reset)

/-- R41: which register each offset of the window reads, with no command pending. -/
def Obligations.RegisterMapOfTheWindow : Prop :=
  ∀ s : State, s.status.busy = false →
    (busRead 0x00 s).readData = 0x00180801#32 ∧ (busRead 0x04 s).readData = s.status.word
    ∧ (busRead 0x08 s).readData = s.cmd ∧ (busRead 0x10 s).readData = s.maskIn.zeroExtend 32
    ∧ (busRead 0x14 s).readData = s.maskOut.zeroExtend 32 ∧ (busRead 0x18 s).readData = s.keyhdr.zeroExtend 32
    ∧ (∀ j : Fin 8, (busRead (0x20 + 4 * j.val) s).readData = (s.wIn.get j).zeroExtend 32)
    ∧ (∀ j : Fin 8, (busRead (0x40 + 4 * j.val) s).readData = (s.wOut.get j).zeroExtend 32)
    ∧ (busRead 0x0C s).readData = 0 ∧ (busRead 0x1C s).readData = 0
    ∧ (∀ off, 0x60 ≤ off → off ≤ 0xFC → (busRead off s).readData = 0)

/-- R26: CAP reads 0x00180801 in every state, pending command or asserted reset included, and ignores writes. -/
def Obligations.CapIsConstant : Prop :=
  ∀ (s : State) (v : Word), (busRead 0x00 s).readData = 0x00180801#32 ∧ busWrite 0x00 v s = s
    ∧ (0x00180801#32).extractLsb' 0 8 = 0x01#8 ∧ (0x00180801#32).extractLsb' 8 8 = 0x08#8
    ∧ (0x00180801#32).extractLsb' 16 8 = 0x18#8 ∧ (0x00180801#32).extractLsb' 24 8 = 0x00#8
    ∧ (∀ rest ops, s.status.errcode.toNat ≤ 2 → s.schedule = .host :: rest → s.program = .read .w32 0x00 :: ops →
        ∃ t, step s = .next t ∧ t.readData = 0x00180801#32)

/-- R27: the place of every STATUS bit, its legal values in every legal state, and that a host write changes OVERRUN
alone. -/
def Obligations.StatusWordFieldsAndLegalValues : Prop :=
  (∀ s : State,
    s.status.word.getLsbD 0 = s.status.ready ∧ s.status.word.getLsbD 1 = s.status.busy
    ∧ s.status.word.getLsbD 2 = s.status.done ∧ s.status.word.getLsbD 3 = s.status.err
    ∧ s.status.word.extractLsb' 4 4 = s.status.errcode ∧ s.status.word.getLsbD 8 = s.status.overrun
    ∧ s.status.word.toNat / 512 = 0)
  ∧ State.reset.status.word = 0x00000000#32
  ∧ (∀ s : State, Legal s →
      ¬ (s.status.word.getLsbD 1 = true ∧ s.status.word.getLsbD 2 = true)
      ∧ (s.status.word.getLsbD 3 = true → s.status.word.getLsbD 2 = true)
      ∧ (s.status.word.extractLsb' 4 4 ≠ 0 ↔ s.status.word.getLsbD 3 = true)
      ∧ (s.status.word.extractLsb' 4 4).toNat ≤ 2)
  ∧ (∀ (s : State) (v : Word),
      busWrite 0x04 v s = { s with status := { s.status with overrun := s.status.overrun && !v.getLsbD 8 } })
  ∧ (∃ s : State, Legal s ∧ s.status.busy = true ∧ s.status.ready = false)

/-- R33: a CMD write with BUSY = 0 is accepted whatever the word and READY are; a read of CMD gives it back; with BUSY = 1
it is dropped and sets OVERRUN. -/
def Obligations.CommandWriteIsAcceptedWhenIdle : Prop :=
  (∀ (s : State) (v : Word), s.status.busy = false →
    busWrite 0x08 v s
      = { s with cmd := v, status := { s.status with busy := true, done := false, err := false, errcode := 0 } }
    ∧ (busRead 0x08 (busWrite 0x08 v s)).readData = v)
  ∧ (∀ (s : State) (v : Word), s.status.busy = true →
      busWrite 0x08 v s = { s with status := { s.status with overrun := true } }
      ∧ (busRead 0x08 (busWrite 0x08 v s)).readData = s.cmd)
  ∧ State.reset.cmd = 0

/-- R143: with BUSY = 1 a write to CMD, MASK_IN or W_IN[j] changes OVERRUN alone; writes to STATUS, to read-only registers
and to reserved offsets do what they do with BUSY = 0 and never set OVERRUN. -/
def Obligations.WritesWhileBusyAreDropped : Prop :=
  ∀ (s : State) (v : Word), s.status.busy = true →
    (∀ off, off = 0x08 ∨ off = 0x10 ∨ (∃ j : Fin 8, off = 0x20 + 4 * j.val) →
      busWrite off v s = { s with status := { s.status with overrun := true } })
    ∧ busWrite 0x04 v s = { s with status := { s.status with overrun := s.status.overrun && !v.getLsbD 8 } }
    ∧ (∀ off, off = 0x00 ∨ off = 0x0C ∨ off = 0x14 ∨ off = 0x18 ∨ off = 0x1C ∨ (0x40 ≤ off ∧ off ≤ 0xFC) →
        busWrite off v s = s)

/-- R43: reserved offsets read 0 and ignore writes; the 16-bit registers read 0 in bits [31:16] and keep the low 16 bits
of a write; read-only registers ignore writes; a write of STATUS reaches OVERRUN alone; an operand write changes its
register alone. -/
def Obligations.ReservedBitsReadZeroAndIgnoreWrites : Prop :=
  (∀ (s : State) (off : Nat) (v : Word), off = 0x0C ∨ off = 0x1C ∨ (0x60 ≤ off ∧ off ≤ 0xFC) →
    (busRead off s).readData = 0 ∧ busWrite off v s = s)
  ∧ (∀ (s : State) (off : Nat), 0x10 ≤ off → (busRead off s).readData.toNat < 65536)
  ∧ (∀ (s : State) (off : Nat) (v : Word), off = 0x00 ∨ off = 0x14 ∨ off = 0x18 ∨ (0x40 ≤ off ∧ off ≤ 0x5C) →
      busWrite off v s = s)
  ∧ (∀ (s : State) (v : Word), s.status.busy = false →
      busWrite 0x10 v s = { s with maskIn := v.extractLsb' 0 16 }
      ∧ ∀ j : Fin 8, ∃ w, busWrite (0x20 + 4 * j.val) v s = { s with wIn := w } ∧ w.get j = v.extractLsb' 0 16
          ∧ ∀ i, i ≠ j → w.get i = s.wIn.get i)
  ∧ (∀ (s : State) (v : Word),
      busWrite 0x04 v s = { s with status := { s.status with overrun := s.status.overrun && !v.getLsbD 8 } })
  ∧ (∀ s : State, s.status.busy = false → (busWrite 0x20 0xABCD1234#32 s).wIn.get 0 = 0x1234#16)

/-- R44, R49, R165: a read changes no register. With BUSY = 1 a result register reads as the next free value, of which only
that bits [31:16] are 0 is known; with BUSY = 0 reading twice gives the same value. The sequence of free values is
entry 4's choice. -/
def Obligations.ReadsChangeNoRegister : Prop :=
  (∀ (s : State) (off : Nat), SameRegisters (busRead off s) s)
  ∧ (∀ (s : State) (off : Nat), s.status.busy = false →
      (busRead off (busRead off s)).readData = (busRead off s).readData ∧ (busRead off s).freeIndex = s.freeIndex)
  ∧ (∀ (s : State) (off : Nat), s.status.busy = true →
      off = 0x14 ∨ off = 0x18 ∨ (∃ j : Fin 8, off = 0x40 + 4 * j.val) →
      (busRead off s).readData = (Config.freeRead s.freeIndex).zeroExtend 32
      ∧ (busRead off s).freeIndex = s.freeIndex + 1 ∧ (busRead off s).readData.toNat < 65536)

/-- R46: the lanes of a register, and that W_OUT read in offset order gives the payload in lanes 0 and 1. -/
def Obligations.WindowLanesGiveThePayload : Prop :=
  (∀ v : Word, ∀ n : Fin 4, (lanes v)[n.val]? = some (v.extractLsb' (8 * n.val) 8))
  ∧ (∀ s : State, s.status.busy = false →
      (slots.flatMap fun j => (lanes (busRead (0x40 + 4 * j.val) s).readData).take 2) = ser s.wOut)

/-- R42: on the host's turn an access of another width, at an offset that is no multiple of 4, or outside the window is
refused; a defined access goes through, and with reset released its step is the read or the write of the register window and
nothing else. -/
def Obligations.UndefinedAccessIsRefused : Prop :=
  ∀ (s : State) (rest : List Agent) (ops : List HostOp) (w : Width) (off : Nat) (v : Word),
    s.status.errcode.toNat ≤ 2 → s.schedule = .host :: rest →
    s.program = .read w off :: ops ∨ s.program = .write w off v :: ops →
    (w ≠ .w32 ∨ off % 4 ≠ 0 ∨ 0x100 ≤ off → step s = .refused .undefinedAccess)
    ∧ (w = .w32 → off % 4 = 0 → off < 0x100 → ∃ t, step s = .next t ∧ t.program = ops ∧ t.schedule = rest
        ∧ (s.resetLine = false → s.program = .read w off :: ops →
            t = setProgram ops (busRead off (setSchedule rest s)))
        ∧ (s.resetLine = false → s.program = .write w off v :: ops →
            t = setProgram ops (busWrite off v (setSchedule rest s))))

/-- R47: an access of a second bus master is refused. -/
def Obligations.SecondHostIsRefused : Prop :=
  ∀ (s : State) (rest : List Agent) (ops : List HostOp), s.status.errcode.toNat ≤ 2 → s.schedule = .host :: rest →
    s.program = .foreignAccess :: ops → step s = .refused .secondHost

/-- R72: the host's loop on STATUS reads it and goes on exactly when the bit is 1 (reset released). The loop as one host
operation is entry 20's choice; that the Host moves when nobody is scheduled and no other agent has a step is entry 2's. -/
def Obligations.PollGoesOnWhenItsBitIsSet : Prop :=
  ∀ (s : State) (ops : List HostOp) (bit : Fin 32),
    s.status.errcode.toNat ≤ 2 → s.resetLine = false → nextAgent s = .host → s.program = .readUntil bit :: ops →
    ∃ t, step s = .next t ∧ SameRegisters t s ∧ t.readData = s.status.word ∧ t.schedule = s.schedule.tail
      ∧ (s.status.word.getLsbD bit.val = true → t.program = ops)
      ∧ (s.status.word.getLsbD bit.val = false → t.program = s.program)

/-! ## Steps, reset and runs (70_reset_and_hazards.md) -/

/-- R168: when the Engine has the turn (the schedule names it, or names nobody: then it goes before the Host, entry 2), a
command is pending, the tables are built and reset is released, the step is the meaning of the decoded command, on the
state with the turn taken off the schedule. -/
def Obligations.StepRunsTheDecodedCommand : Prop :=
  ∀ (s : State) (i : Instr), s.status.errcode.toNat ≤ 2 → s.resetLine = false →
    s.schedule = [] ∨ (∃ rest, s.schedule = .engine :: rest) →
    s.status.busy = true → s.status.ready = true → decode s.cmd = .ok i →
    step s = exec i { s with schedule := s.schedule.tail }

/-- R162: on its turn, with the tables UNBUILT and reset released, the Builder fills every entry and sets READY, and
changes nothing else. When they are built, or reset is asserted, it has no step; that its turn then passes and changes
nothing is entry 15's choice. -/
def Obligations.BuilderFillsEveryEntry : Prop :=
  (∀ (s : State) (rest : List Agent), s.status.errcode.toNat ≤ 2 → s.resetLine = false → s.status.ready = false →
    s.schedule = .builder :: rest →
    ∃ t, step s = .next t ∧ t.status.ready = true
      ∧ (∀ (k : Fin 8) (m : Mask) (i : Nat), i < 16 → (t.pt.read k m).getLsbD (destSquare k i) = m.getLsbD i)
      ∧ t = { s with pt := t.pt, status := { s.status with ready := true }, schedule := rest })
  ∧ (∀ s : State, s.status.ready = true ∨ s.resetLine = true → agentStep .builder s = .next s)

/-- R163: a command accepted before READY waits: the Engine's turn passes, and once the Builder has stepped the Engine runs
the command as if it had been accepted after the build. R163 says that the Engine's step is not enabled before READY; that its
turn then passes and changes nothing is entry 15's choice. -/
def Obligations.CommandBeforeReadyWaits : Prop :=
  ∀ (s : State) (v : Word), s.resetLine = false → s.status.ready = false → s.status.busy = false →
    (busWrite 0x08 v s).status.busy = true
    ∧ agentStep .engine (busWrite 0x08 v s) = .next (busWrite 0x08 v s)
    ∧ ∃ t, agentStep .builder (busWrite 0x08 v s) = .next t
        ∧ agentStep .engine t = agentStep .engine (busWrite 0x08 v (builderStep s)) ∧ engineEnabled t = true

/-- R160: asserting reset, or releasing it when it is asserted, leaves every register at its reset value, from any state;
while reset is asserted every step does; a pending command is abandoned; no bus write resets the block. The model's own
choices: what a host access does while reset is asserted (entry 7), releasing an input that is already released, which changes
no register (entry 21), and that the Host moves when nobody is scheduled and no other agent has a step (entry 2). -/
def Obligations.ResetTakesEveryRegister : Prop :=
  (∀ (s : State) (ops : List HostOp), s.status.errcode.toNat ≤ 2 → nextAgent (holdReset s) = .host →
    (s.program = .assertReset :: ops →
      ∃ t, step s = .next t ∧ SameWindow t State.reset ∧ t.resetLine = true ∧ t.program = ops)
    ∧ (s.program = .releaseReset :: ops → s.resetLine = true →
      ∃ t, step s = .next t ∧ SameWindow t State.reset ∧ t.resetLine = false ∧ t.program = ops)
    ∧ (s.program = .releaseReset :: ops → s.resetLine = false →
      ∃ t, step s = .next t ∧ SameRegisters t s ∧ t.resetLine = false ∧ t.program = ops))
  ∧ (∀ s t : State, s.resetLine = true → step s = .next t → SameWindow t State.reset)
  ∧ (∀ (s : State) (off : Nat) (v : Word), (busWrite off v s).status.ready = s.status.ready
      ∧ (s.status.busy = true → (busWrite off v s).status.busy = true)
      ∧ (busWrite off v s).resetLine = s.resetLine)

/-- The state after reset is legal (R20, R27, R161). -/
def Obligations.ResetStateIsLegal : Prop := Legal State.reset

/-- Every step keeps a legal state legal: the STATUS values of R27, the table contents of R36 and R53, the canonical form
of the store, the reset values while reset is asserted (R160), the key headers of R25, and that W_OUT is always a
disjoint state (R107). The form of the store is entry 3's choice. -/
def Obligations.EveryStepKeepsLegality : Prop :=
  ∀ s t : State, Legal s → step s = .next t → Legal t

/-- 60_exceptions.md: every error is a defined outcome, none a model fault; only an undefined access or a second host is
refused. So from a legal state a run with a host program that makes neither goes on for ever, whatever the schedule. That a
turn of an agent with no step passes, and a run goes on past the end R170 gives it, is entry 15's choice. -/
def Obligations.LegalRunsNeverStop : Prop :=
  (∀ (s : State) (r : Fault), Legal s → step s ≠ .fault r)
  ∧ (∀ (n : Nat) (s : State), Legal s →
      s.program.all (fun op => PlainOp op || decide (op = .assertReset) || decide (op = .releaseReset)) = true →
      ∃ t, Host.Core.run Sys2Proof.core n s = .next t ∧ Legal t)

/-- R168: an accepted command completes. With a finite schedule of any content, and a host that does not touch reset, it
has completed after at most two steps beyond the schedule. The bound rests on the model's default order, entry 2. -/
def Obligations.AcceptedCommandCompletes : Prop :=
  ∀ s : State, Legal s → s.status.busy = true → s.program.all PlainOp = true →
    ∃ n, n ≤ s.schedule.length + 2 ∧ ∃ t, Host.Core.run Sys2Proof.core n s = .next t
      ∧ t.status.busy = false ∧ t.status.done = true ∧ t.cmd = s.cmd

/-- R37, R166: while a command is pending no step changes CMD, W_IN or MASK_IN, but the Host's step that touches reset. That a
turn of an agent with no step passes is entry 15's choice; who moves when nobody is scheduled, entry 2's. -/
def Obligations.OperandsAreFrozenWhileBusy : Prop :=
  ∀ s t : State, s.status.busy = true → s.resetLine = false →
    ¬ HostTakes s .assertReset → ¬ HostTakes s .releaseReset → step s = .next t →
    t.cmd = s.cmd ∧ t.wIn = s.wIn ∧ t.maskIn = s.maskIn

/-- R28, R53: once READY = 1 no step changes READY or PT, but the Host's step that touches reset. That a turn of an agent with
no step passes is entry 15's choice; who moves when nobody is scheduled, entry 2's. -/
def Obligations.ReadyAndTablesStay : Prop :=
  ∀ s t : State, s.status.ready = true → s.resetLine = false →
    ¬ HostTakes s .assertReset → ¬ HostTakes s .releaseReset → step s = .next t →
    t.status.ready = true ∧ ∀ k m, t.pt.read k m = s.pt.read k m

/-- R30, R31, R49, R146: with no command pending, DONE, ERR and ERRCODE stay until an accepted CMD write or reset, and so do
the result registers, which no step without a pending command changes but reset; OVERRUN, once set, stays until a STATUS
write with bit 8 = 1 or reset. That a turn of an agent with no step passes is entry 15's choice; who moves when nobody is
scheduled, entry 2's. -/
def Obligations.StatusHoldsUntilCleared : Prop :=
  ∀ s t : State, s.resetLine = false →
    ¬ HostTakes s .assertReset → ¬ HostTakes s .releaseReset → step s = .next t →
    (s.status.busy = false → (∀ v, ¬ HostTakes s (.write .w32 0x08 v)) →
      t.status.done = s.status.done ∧ t.status.err = s.status.err ∧ t.status.errcode = s.status.errcode)
    ∧ (s.status.busy = false → t.maskOut = s.maskOut ∧ t.keyhdr = s.keyhdr ∧ t.wOut = s.wOut)
    ∧ (s.status.overrun = true → (∀ v, v.getLsbD 8 = true → ¬ HostTakes s (.write .w32 0x04 v)) →
        t.status.overrun = true)

/-- R48: after an accepted CMD write STATUS shows BUSY = 1 or DONE = 1, and every later step keeps it so, but the
Host's step that touches reset. That a turn of an agent with no step passes is entry 15's choice; who moves when nobody is
scheduled, entry 2's. -/
def Obligations.BusyOrDoneAfterAcceptedWrite : Prop :=
  (∀ (s : State) (v : Word), s.status.busy = false → (busWrite 0x08 v s).status.busy = true)
  ∧ (∀ s t : State, s.resetLine = false →
      ¬ HostTakes s .assertReset → ¬ HostTakes s .releaseReset →
      s.status.busy = true ∨ s.status.done = true → step s = .next t →
      t.status.busy = true ∨ t.status.done = true)

/-- R37, R163, U12: what PT holds before READY = 1 cannot be observed: two states that differ in it alone step alike, and
alike again in PT once READY is 1. It shows that entry 3's reset value cannot be seen; it also covers the turns that pass,
entry 15's choice. -/
def Obligations.UnbuiltTablesAreNotObservable : Prop :=
  ∀ (s : State) (p : Memory), s.status.ready = false →
    (∃ t q, step s = .next t ∧ step { s with pt := p } = .next { t with pt := q } ∧ (t.status.ready = true → q = t.pt))
    ∨ (∃ r, step s = .fault r ∧ step { s with pt := p } = .fault r)
    ∨ (∃ r, step s = .refused r ∧ step { s with pt := p } = .refused r)
end

