-- ==== Sys2Proof/Laws/Assembler.lean ====
section
/-! SUPPORT. What the assembler's text tables answer (30_encoding.md R71): a text that is listed, and no other. -/

namespace Sys2Proof.Machine

/-- A value a table answers is listed with its text. -/
theorem mem_of_lookupText {α : Type} (table : List (String × α)) (text : String) (v : α)
    (h : lookupText table text = some v) : (text, v) ∈ table := by
  induction table with
  | nil => cases h
  | cons row rows ih =>
    obtain ⟨name, value⟩ := row
    rw [lookupText] at h
    split at h
    · rename_i he
      cases h
      rw [eq_of_beq he]
      exact List.mem_cons_self
    · exact List.mem_cons_of_mem _ (ih h)

/-- In a table whose texts all differ, every listed text gives its value. -/
theorem lookupText_of_mem {α : Type} (table : List (String × α)) (hd : (table.map Prod.fst).Nodup) (text : String)
    (v : α) (h : (text, v) ∈ table) : lookupText table text = some v := by
  induction table with
  | nil => cases h
  | cons row rows ih =>
    obtain ⟨name, value⟩ := row
    rw [List.map_cons, List.nodup_cons] at hd
    rw [lookupText]
    rcases List.mem_cons.mp h with he | hm
    · cases he
      rw [if_pos (beq_self_eq_true text)]
    · rw [if_neg, ih hd.2 hm]
      intro he
      exact hd.1 (List.mem_map.mpr ⟨(text, v), hm, (eq_of_beq he).symm⟩)

end Sys2Proof.Machine
end

