-- ==== Sys2Proof/Laws/State.lean ====
section
/-! SUPPORT. One lemma per field per update of State and of Status, so that no proof unfolds a record update. -/

namespace Sys2Proof.Machine

section StateUpdates

variable (s : State)

@[simp] theorem complete_status : (complete s).status = s.status.complete := rfl
@[simp] theorem complete_cmd : (complete s).cmd = s.cmd := rfl
@[simp] theorem complete_maskIn : (complete s).maskIn = s.maskIn := rfl
@[simp] theorem complete_maskOut : (complete s).maskOut = s.maskOut := rfl
@[simp] theorem complete_keyhdr : (complete s).keyhdr = s.keyhdr := rfl
@[simp] theorem complete_wIn : (complete s).wIn = s.wIn := rfl
@[simp] theorem complete_wOut : (complete s).wOut = s.wOut := rfl
@[simp] theorem complete_pt : (complete s).pt = s.pt := rfl
@[simp] theorem complete_resetLine : (complete s).resetLine = s.resetLine := rfl
@[simp] theorem complete_program : (complete s).program = s.program := rfl
@[simp] theorem complete_schedule : (complete s).schedule = s.schedule := rfl
@[simp] theorem complete_readData : (complete s).readData = s.readData := rfl
@[simp] theorem complete_freeIndex : (complete s).freeIndex = s.freeIndex := rfl
@[simp] theorem complete_params : (complete s).params = s.params := rfl

@[simp] theorem raiseError_status (e : CommandError) : (raiseError e s).status = s.status.completeError e := rfl
@[simp] theorem raiseError_cmd (e : CommandError) : (raiseError e s).cmd = s.cmd := rfl
@[simp] theorem raiseError_maskIn (e : CommandError) : (raiseError e s).maskIn = s.maskIn := rfl
@[simp] theorem raiseError_maskOut (e : CommandError) : (raiseError e s).maskOut = s.maskOut := rfl
@[simp] theorem raiseError_keyhdr (e : CommandError) : (raiseError e s).keyhdr = s.keyhdr := rfl
@[simp] theorem raiseError_wIn (e : CommandError) : (raiseError e s).wIn = s.wIn := rfl
@[simp] theorem raiseError_wOut (e : CommandError) : (raiseError e s).wOut = s.wOut := rfl
@[simp] theorem raiseError_pt (e : CommandError) : (raiseError e s).pt = s.pt := rfl
@[simp] theorem raiseError_resetLine (e : CommandError) : (raiseError e s).resetLine = s.resetLine := rfl
@[simp] theorem raiseError_program (e : CommandError) : (raiseError e s).program = s.program := rfl
@[simp] theorem raiseError_schedule (e : CommandError) : (raiseError e s).schedule = s.schedule := rfl
@[simp] theorem raiseError_readData (e : CommandError) : (raiseError e s).readData = s.readData := rfl
@[simp] theorem raiseError_freeIndex (e : CommandError) : (raiseError e s).freeIndex = s.freeIndex := rfl
@[simp] theorem raiseError_params (e : CommandError) : (raiseError e s).params = s.params := rfl

@[simp] theorem acceptCommand_status (v : Word) : (acceptCommand v s).status = s.status.accept := rfl
@[simp] theorem acceptCommand_cmd (v : Word) : (acceptCommand v s).cmd = v := rfl
@[simp] theorem acceptCommand_maskIn (v : Word) : (acceptCommand v s).maskIn = s.maskIn := rfl
@[simp] theorem acceptCommand_maskOut (v : Word) : (acceptCommand v s).maskOut = s.maskOut := rfl
@[simp] theorem acceptCommand_keyhdr (v : Word) : (acceptCommand v s).keyhdr = s.keyhdr := rfl
@[simp] theorem acceptCommand_wIn (v : Word) : (acceptCommand v s).wIn = s.wIn := rfl
@[simp] theorem acceptCommand_wOut (v : Word) : (acceptCommand v s).wOut = s.wOut := rfl
@[simp] theorem acceptCommand_pt (v : Word) : (acceptCommand v s).pt = s.pt := rfl
@[simp] theorem acceptCommand_resetLine (v : Word) : (acceptCommand v s).resetLine = s.resetLine := rfl
@[simp] theorem acceptCommand_program (v : Word) : (acceptCommand v s).program = s.program := rfl
@[simp] theorem acceptCommand_schedule (v : Word) : (acceptCommand v s).schedule = s.schedule := rfl
@[simp] theorem acceptCommand_readData (v : Word) : (acceptCommand v s).readData = s.readData := rfl
@[simp] theorem acceptCommand_freeIndex (v : Word) : (acceptCommand v s).freeIndex = s.freeIndex := rfl
@[simp] theorem acceptCommand_params (v : Word) : (acceptCommand v s).params = s.params := rfl

@[simp] theorem dropWrite_status : (dropWrite s).status = s.status.setOverrun := rfl
@[simp] theorem dropWrite_cmd : (dropWrite s).cmd = s.cmd := rfl
@[simp] theorem dropWrite_maskIn : (dropWrite s).maskIn = s.maskIn := rfl
@[simp] theorem dropWrite_maskOut : (dropWrite s).maskOut = s.maskOut := rfl
@[simp] theorem dropWrite_keyhdr : (dropWrite s).keyhdr = s.keyhdr := rfl
@[simp] theorem dropWrite_wIn : (dropWrite s).wIn = s.wIn := rfl
@[simp] theorem dropWrite_wOut : (dropWrite s).wOut = s.wOut := rfl
@[simp] theorem dropWrite_pt : (dropWrite s).pt = s.pt := rfl
@[simp] theorem dropWrite_resetLine : (dropWrite s).resetLine = s.resetLine := rfl
@[simp] theorem dropWrite_program : (dropWrite s).program = s.program := rfl
@[simp] theorem dropWrite_schedule : (dropWrite s).schedule = s.schedule := rfl
@[simp] theorem dropWrite_readData : (dropWrite s).readData = s.readData := rfl
@[simp] theorem dropWrite_freeIndex : (dropWrite s).freeIndex = s.freeIndex := rfl
@[simp] theorem dropWrite_params : (dropWrite s).params = s.params := rfl

@[simp] theorem writeResult_status (w : Words) (h : BitVec 16) : (writeResult w h s).status = s.status := rfl
@[simp] theorem writeResult_cmd (w : Words) (h : BitVec 16) : (writeResult w h s).cmd = s.cmd := rfl
@[simp] theorem writeResult_maskIn (w : Words) (h : BitVec 16) : (writeResult w h s).maskIn = s.maskIn := rfl
@[simp] theorem writeResult_maskOut (w : Words) (h : BitVec 16) : (writeResult w h s).maskOut = s.maskOut := rfl
@[simp] theorem writeResult_keyhdr (w : Words) (h : BitVec 16) : (writeResult w h s).keyhdr = h := rfl
@[simp] theorem writeResult_wIn (w : Words) (h : BitVec 16) : (writeResult w h s).wIn = s.wIn := rfl
@[simp] theorem writeResult_wOut (w : Words) (h : BitVec 16) : (writeResult w h s).wOut = w := rfl
@[simp] theorem writeResult_pt (w : Words) (h : BitVec 16) : (writeResult w h s).pt = s.pt := rfl
@[simp] theorem writeResult_resetLine (w : Words) (h : BitVec 16) : (writeResult w h s).resetLine = s.resetLine := rfl
@[simp] theorem writeResult_program (w : Words) (h : BitVec 16) : (writeResult w h s).program = s.program := rfl
@[simp] theorem writeResult_schedule (w : Words) (h : BitVec 16) : (writeResult w h s).schedule = s.schedule := rfl
@[simp] theorem writeResult_readData (w : Words) (h : BitVec 16) : (writeResult w h s).readData = s.readData := rfl
@[simp] theorem writeResult_freeIndex (w : Words) (h : BitVec 16) : (writeResult w h s).freeIndex = s.freeIndex := rfl
@[simp] theorem writeResult_params (w : Words) (h : BitVec 16) : (writeResult w h s).params = s.params := rfl

@[simp] theorem builderStep_status : (builderStep s).status = s.status.setReady := rfl
@[simp] theorem builderStep_cmd : (builderStep s).cmd = s.cmd := rfl
@[simp] theorem builderStep_maskIn : (builderStep s).maskIn = s.maskIn := rfl
@[simp] theorem builderStep_maskOut : (builderStep s).maskOut = s.maskOut := rfl
@[simp] theorem builderStep_keyhdr : (builderStep s).keyhdr = s.keyhdr := rfl
@[simp] theorem builderStep_wIn : (builderStep s).wIn = s.wIn := rfl
@[simp] theorem builderStep_wOut : (builderStep s).wOut = s.wOut := rfl
@[simp] theorem builderStep_pt : (builderStep s).pt = Memory.built := rfl
@[simp] theorem builderStep_resetLine : (builderStep s).resetLine = s.resetLine := rfl
@[simp] theorem builderStep_program : (builderStep s).program = s.program := rfl
@[simp] theorem builderStep_schedule : (builderStep s).schedule = s.schedule := rfl
@[simp] theorem builderStep_readData : (builderStep s).readData = s.readData := rfl
@[simp] theorem builderStep_freeIndex : (builderStep s).freeIndex = s.freeIndex := rfl
@[simp] theorem builderStep_params : (builderStep s).params = s.params := rfl

@[simp] theorem resetRegisters_status : (resetRegisters s).status = Status.reset := rfl
@[simp] theorem resetRegisters_cmd : (resetRegisters s).cmd = 0 := rfl
@[simp] theorem resetRegisters_maskIn : (resetRegisters s).maskIn = 0 := rfl
@[simp] theorem resetRegisters_maskOut : (resetRegisters s).maskOut = 0 := rfl
@[simp] theorem resetRegisters_keyhdr : (resetRegisters s).keyhdr = 0 := rfl
@[simp] theorem resetRegisters_wIn : (resetRegisters s).wIn = Words.zero := rfl
@[simp] theorem resetRegisters_wOut : (resetRegisters s).wOut = Words.zero := rfl
@[simp] theorem resetRegisters_pt : (resetRegisters s).pt = [] := rfl
@[simp] theorem resetRegisters_resetLine : (resetRegisters s).resetLine = s.resetLine := rfl
@[simp] theorem resetRegisters_program : (resetRegisters s).program = s.program := rfl
@[simp] theorem resetRegisters_schedule : (resetRegisters s).schedule = s.schedule := rfl
@[simp] theorem resetRegisters_readData : (resetRegisters s).readData = s.readData := rfl
@[simp] theorem resetRegisters_freeIndex : (resetRegisters s).freeIndex = s.freeIndex := rfl
@[simp] theorem resetRegisters_params : (resetRegisters s).params = s.params := rfl

@[simp] theorem setMaskOut_status (x : Mask) : (setMaskOut x s).status = s.status := rfl
@[simp] theorem setMaskOut_cmd (x : Mask) : (setMaskOut x s).cmd = s.cmd := rfl
@[simp] theorem setMaskOut_maskIn (x : Mask) : (setMaskOut x s).maskIn = s.maskIn := rfl
@[simp] theorem setMaskOut_maskOut (x : Mask) : (setMaskOut x s).maskOut = x := rfl
@[simp] theorem setMaskOut_keyhdr (x : Mask) : (setMaskOut x s).keyhdr = s.keyhdr := rfl
@[simp] theorem setMaskOut_wIn (x : Mask) : (setMaskOut x s).wIn = s.wIn := rfl
@[simp] theorem setMaskOut_wOut (x : Mask) : (setMaskOut x s).wOut = s.wOut := rfl
@[simp] theorem setMaskOut_pt (x : Mask) : (setMaskOut x s).pt = s.pt := rfl
@[simp] theorem setMaskOut_resetLine (x : Mask) : (setMaskOut x s).resetLine = s.resetLine := rfl
@[simp] theorem setMaskOut_program (x : Mask) : (setMaskOut x s).program = s.program := rfl
@[simp] theorem setMaskOut_schedule (x : Mask) : (setMaskOut x s).schedule = s.schedule := rfl
@[simp] theorem setMaskOut_readData (x : Mask) : (setMaskOut x s).readData = s.readData := rfl
@[simp] theorem setMaskOut_freeIndex (x : Mask) : (setMaskOut x s).freeIndex = s.freeIndex := rfl
@[simp] theorem setMaskOut_params (x : Mask) : (setMaskOut x s).params = s.params := rfl

@[simp] theorem setMaskIn_status (x : Mask) : (setMaskIn x s).status = s.status := rfl
@[simp] theorem setMaskIn_cmd (x : Mask) : (setMaskIn x s).cmd = s.cmd := rfl
@[simp] theorem setMaskIn_maskIn (x : Mask) : (setMaskIn x s).maskIn = x := rfl
@[simp] theorem setMaskIn_maskOut (x : Mask) : (setMaskIn x s).maskOut = s.maskOut := rfl
@[simp] theorem setMaskIn_keyhdr (x : Mask) : (setMaskIn x s).keyhdr = s.keyhdr := rfl
@[simp] theorem setMaskIn_wIn (x : Mask) : (setMaskIn x s).wIn = s.wIn := rfl
@[simp] theorem setMaskIn_wOut (x : Mask) : (setMaskIn x s).wOut = s.wOut := rfl
@[simp] theorem setMaskIn_pt (x : Mask) : (setMaskIn x s).pt = s.pt := rfl
@[simp] theorem setMaskIn_resetLine (x : Mask) : (setMaskIn x s).resetLine = s.resetLine := rfl
@[simp] theorem setMaskIn_program (x : Mask) : (setMaskIn x s).program = s.program := rfl
@[simp] theorem setMaskIn_schedule (x : Mask) : (setMaskIn x s).schedule = s.schedule := rfl
@[simp] theorem setMaskIn_readData (x : Mask) : (setMaskIn x s).readData = s.readData := rfl
@[simp] theorem setMaskIn_freeIndex (x : Mask) : (setMaskIn x s).freeIndex = s.freeIndex := rfl
@[simp] theorem setMaskIn_params (x : Mask) : (setMaskIn x s).params = s.params := rfl

@[simp] theorem setWIn_status (x : Words) : (setWIn x s).status = s.status := rfl
@[simp] theorem setWIn_cmd (x : Words) : (setWIn x s).cmd = s.cmd := rfl
@[simp] theorem setWIn_maskIn (x : Words) : (setWIn x s).maskIn = s.maskIn := rfl
@[simp] theorem setWIn_maskOut (x : Words) : (setWIn x s).maskOut = s.maskOut := rfl
@[simp] theorem setWIn_keyhdr (x : Words) : (setWIn x s).keyhdr = s.keyhdr := rfl
@[simp] theorem setWIn_wIn (x : Words) : (setWIn x s).wIn = x := rfl
@[simp] theorem setWIn_wOut (x : Words) : (setWIn x s).wOut = s.wOut := rfl
@[simp] theorem setWIn_pt (x : Words) : (setWIn x s).pt = s.pt := rfl
@[simp] theorem setWIn_resetLine (x : Words) : (setWIn x s).resetLine = s.resetLine := rfl
@[simp] theorem setWIn_program (x : Words) : (setWIn x s).program = s.program := rfl
@[simp] theorem setWIn_schedule (x : Words) : (setWIn x s).schedule = s.schedule := rfl
@[simp] theorem setWIn_readData (x : Words) : (setWIn x s).readData = s.readData := rfl
@[simp] theorem setWIn_freeIndex (x : Words) : (setWIn x s).freeIndex = s.freeIndex := rfl
@[simp] theorem setWIn_params (x : Words) : (setWIn x s).params = s.params := rfl

@[simp] theorem setStatus_status (x : Status) : (setStatus x s).status = x := rfl
@[simp] theorem setStatus_cmd (x : Status) : (setStatus x s).cmd = s.cmd := rfl
@[simp] theorem setStatus_maskIn (x : Status) : (setStatus x s).maskIn = s.maskIn := rfl
@[simp] theorem setStatus_maskOut (x : Status) : (setStatus x s).maskOut = s.maskOut := rfl
@[simp] theorem setStatus_keyhdr (x : Status) : (setStatus x s).keyhdr = s.keyhdr := rfl
@[simp] theorem setStatus_wIn (x : Status) : (setStatus x s).wIn = s.wIn := rfl
@[simp] theorem setStatus_wOut (x : Status) : (setStatus x s).wOut = s.wOut := rfl
@[simp] theorem setStatus_pt (x : Status) : (setStatus x s).pt = s.pt := rfl
@[simp] theorem setStatus_resetLine (x : Status) : (setStatus x s).resetLine = s.resetLine := rfl
@[simp] theorem setStatus_program (x : Status) : (setStatus x s).program = s.program := rfl
@[simp] theorem setStatus_schedule (x : Status) : (setStatus x s).schedule = s.schedule := rfl
@[simp] theorem setStatus_readData (x : Status) : (setStatus x s).readData = s.readData := rfl
@[simp] theorem setStatus_freeIndex (x : Status) : (setStatus x s).freeIndex = s.freeIndex := rfl
@[simp] theorem setStatus_params (x : Status) : (setStatus x s).params = s.params := rfl

@[simp] theorem receive_status (x : Word) : (receive x s).status = s.status := rfl
@[simp] theorem receive_cmd (x : Word) : (receive x s).cmd = s.cmd := rfl
@[simp] theorem receive_maskIn (x : Word) : (receive x s).maskIn = s.maskIn := rfl
@[simp] theorem receive_maskOut (x : Word) : (receive x s).maskOut = s.maskOut := rfl
@[simp] theorem receive_keyhdr (x : Word) : (receive x s).keyhdr = s.keyhdr := rfl
@[simp] theorem receive_wIn (x : Word) : (receive x s).wIn = s.wIn := rfl
@[simp] theorem receive_wOut (x : Word) : (receive x s).wOut = s.wOut := rfl
@[simp] theorem receive_pt (x : Word) : (receive x s).pt = s.pt := rfl
@[simp] theorem receive_resetLine (x : Word) : (receive x s).resetLine = s.resetLine := rfl
@[simp] theorem receive_program (x : Word) : (receive x s).program = s.program := rfl
@[simp] theorem receive_schedule (x : Word) : (receive x s).schedule = s.schedule := rfl
@[simp] theorem receive_readData (x : Word) : (receive x s).readData = x := rfl
@[simp] theorem receive_freeIndex (x : Word) : (receive x s).freeIndex = s.freeIndex := rfl
@[simp] theorem receive_params (x : Word) : (receive x s).params = s.params := rfl

@[simp] theorem drawFree_status : (drawFree s).status = s.status := rfl
@[simp] theorem drawFree_cmd : (drawFree s).cmd = s.cmd := rfl
@[simp] theorem drawFree_maskIn : (drawFree s).maskIn = s.maskIn := rfl
@[simp] theorem drawFree_maskOut : (drawFree s).maskOut = s.maskOut := rfl
@[simp] theorem drawFree_keyhdr : (drawFree s).keyhdr = s.keyhdr := rfl
@[simp] theorem drawFree_wIn : (drawFree s).wIn = s.wIn := rfl
@[simp] theorem drawFree_wOut : (drawFree s).wOut = s.wOut := rfl
@[simp] theorem drawFree_pt : (drawFree s).pt = s.pt := rfl
@[simp] theorem drawFree_resetLine : (drawFree s).resetLine = s.resetLine := rfl
@[simp] theorem drawFree_program : (drawFree s).program = s.program := rfl
@[simp] theorem drawFree_schedule : (drawFree s).schedule = s.schedule := rfl
@[simp] theorem drawFree_readData : (drawFree s).readData = s.readData := rfl
@[simp] theorem drawFree_freeIndex : (drawFree s).freeIndex = s.freeIndex + 1 := rfl
@[simp] theorem drawFree_params : (drawFree s).params = s.params := rfl

@[simp] theorem setProgram_status (x : List HostOp) : (setProgram x s).status = s.status := rfl
@[simp] theorem setProgram_cmd (x : List HostOp) : (setProgram x s).cmd = s.cmd := rfl
@[simp] theorem setProgram_maskIn (x : List HostOp) : (setProgram x s).maskIn = s.maskIn := rfl
@[simp] theorem setProgram_maskOut (x : List HostOp) : (setProgram x s).maskOut = s.maskOut := rfl
@[simp] theorem setProgram_keyhdr (x : List HostOp) : (setProgram x s).keyhdr = s.keyhdr := rfl
@[simp] theorem setProgram_wIn (x : List HostOp) : (setProgram x s).wIn = s.wIn := rfl
@[simp] theorem setProgram_wOut (x : List HostOp) : (setProgram x s).wOut = s.wOut := rfl
@[simp] theorem setProgram_pt (x : List HostOp) : (setProgram x s).pt = s.pt := rfl
@[simp] theorem setProgram_resetLine (x : List HostOp) : (setProgram x s).resetLine = s.resetLine := rfl
@[simp] theorem setProgram_program (x : List HostOp) : (setProgram x s).program = x := rfl
@[simp] theorem setProgram_schedule (x : List HostOp) : (setProgram x s).schedule = s.schedule := rfl
@[simp] theorem setProgram_readData (x : List HostOp) : (setProgram x s).readData = s.readData := rfl
@[simp] theorem setProgram_freeIndex (x : List HostOp) : (setProgram x s).freeIndex = s.freeIndex := rfl
@[simp] theorem setProgram_params (x : List HostOp) : (setProgram x s).params = s.params := rfl

@[simp] theorem setSchedule_status (x : List Agent) : (setSchedule x s).status = s.status := rfl
@[simp] theorem setSchedule_cmd (x : List Agent) : (setSchedule x s).cmd = s.cmd := rfl
@[simp] theorem setSchedule_maskIn (x : List Agent) : (setSchedule x s).maskIn = s.maskIn := rfl
@[simp] theorem setSchedule_maskOut (x : List Agent) : (setSchedule x s).maskOut = s.maskOut := rfl
@[simp] theorem setSchedule_keyhdr (x : List Agent) : (setSchedule x s).keyhdr = s.keyhdr := rfl
@[simp] theorem setSchedule_wIn (x : List Agent) : (setSchedule x s).wIn = s.wIn := rfl
@[simp] theorem setSchedule_wOut (x : List Agent) : (setSchedule x s).wOut = s.wOut := rfl
@[simp] theorem setSchedule_pt (x : List Agent) : (setSchedule x s).pt = s.pt := rfl
@[simp] theorem setSchedule_resetLine (x : List Agent) : (setSchedule x s).resetLine = s.resetLine := rfl
@[simp] theorem setSchedule_program (x : List Agent) : (setSchedule x s).program = s.program := rfl
@[simp] theorem setSchedule_schedule (x : List Agent) : (setSchedule x s).schedule = x := rfl
@[simp] theorem setSchedule_readData (x : List Agent) : (setSchedule x s).readData = s.readData := rfl
@[simp] theorem setSchedule_freeIndex (x : List Agent) : (setSchedule x s).freeIndex = s.freeIndex := rfl
@[simp] theorem setSchedule_params (x : List Agent) : (setSchedule x s).params = s.params := rfl

@[simp] theorem setResetLine_status (x : Bool) : (setResetLine x s).status = s.status := rfl
@[simp] theorem setResetLine_cmd (x : Bool) : (setResetLine x s).cmd = s.cmd := rfl
@[simp] theorem setResetLine_maskIn (x : Bool) : (setResetLine x s).maskIn = s.maskIn := rfl
@[simp] theorem setResetLine_maskOut (x : Bool) : (setResetLine x s).maskOut = s.maskOut := rfl
@[simp] theorem setResetLine_keyhdr (x : Bool) : (setResetLine x s).keyhdr = s.keyhdr := rfl
@[simp] theorem setResetLine_wIn (x : Bool) : (setResetLine x s).wIn = s.wIn := rfl
@[simp] theorem setResetLine_wOut (x : Bool) : (setResetLine x s).wOut = s.wOut := rfl
@[simp] theorem setResetLine_pt (x : Bool) : (setResetLine x s).pt = s.pt := rfl
@[simp] theorem setResetLine_resetLine (x : Bool) : (setResetLine x s).resetLine = x := rfl
@[simp] theorem setResetLine_program (x : Bool) : (setResetLine x s).program = s.program := rfl
@[simp] theorem setResetLine_schedule (x : Bool) : (setResetLine x s).schedule = s.schedule := rfl
@[simp] theorem setResetLine_readData (x : Bool) : (setResetLine x s).readData = s.readData := rfl
@[simp] theorem setResetLine_freeIndex (x : Bool) : (setResetLine x s).freeIndex = s.freeIndex := rfl
@[simp] theorem setResetLine_params (x : Bool) : (setResetLine x s).params = s.params := rfl

end StateUpdates

section StatusUpdates

variable (st : Status)

@[simp] theorem Status.accept_ready : (st.accept).ready = st.ready := rfl
@[simp] theorem Status.accept_busy : (st.accept).busy = true := rfl
@[simp] theorem Status.accept_done : (st.accept).done = false := rfl
@[simp] theorem Status.accept_err : (st.accept).err = false := rfl
@[simp] theorem Status.accept_errcode : (st.accept).errcode = 0 := rfl
@[simp] theorem Status.accept_overrun : (st.accept).overrun = st.overrun := rfl

@[simp] theorem Status.complete_ready : (st.complete).ready = st.ready := rfl
@[simp] theorem Status.complete_busy : (st.complete).busy = false := rfl
@[simp] theorem Status.complete_done : (st.complete).done = true := rfl
@[simp] theorem Status.complete_err : (st.complete).err = st.err := rfl
@[simp] theorem Status.complete_errcode : (st.complete).errcode = st.errcode := rfl
@[simp] theorem Status.complete_overrun : (st.complete).overrun = st.overrun := rfl

@[simp] theorem Status.completeError_ready (e : CommandError) : (st.completeError e).ready = st.ready := rfl
@[simp] theorem Status.completeError_busy (e : CommandError) : (st.completeError e).busy = false := rfl
@[simp] theorem Status.completeError_done (e : CommandError) : (st.completeError e).done = true := rfl
@[simp] theorem Status.completeError_err (e : CommandError) : (st.completeError e).err = true := rfl
@[simp] theorem Status.completeError_errcode (e : CommandError) : (st.completeError e).errcode = e.code := rfl
@[simp] theorem Status.completeError_overrun (e : CommandError) : (st.completeError e).overrun = st.overrun := rfl

@[simp] theorem Status.setOverrun_ready : (st.setOverrun).ready = st.ready := rfl
@[simp] theorem Status.setOverrun_busy : (st.setOverrun).busy = st.busy := rfl
@[simp] theorem Status.setOverrun_done : (st.setOverrun).done = st.done := rfl
@[simp] theorem Status.setOverrun_err : (st.setOverrun).err = st.err := rfl
@[simp] theorem Status.setOverrun_errcode : (st.setOverrun).errcode = st.errcode := rfl
@[simp] theorem Status.setOverrun_overrun : (st.setOverrun).overrun = true := rfl

@[simp] theorem Status.setReady_ready : (st.setReady).ready = true := rfl
@[simp] theorem Status.setReady_busy : (st.setReady).busy = st.busy := rfl
@[simp] theorem Status.setReady_done : (st.setReady).done = st.done := rfl
@[simp] theorem Status.setReady_err : (st.setReady).err = st.err := rfl
@[simp] theorem Status.setReady_errcode : (st.setReady).errcode = st.errcode := rfl
@[simp] theorem Status.setReady_overrun : (st.setReady).overrun = st.overrun := rfl

@[simp] theorem Status.reset_ready : Status.reset.ready = false := rfl
@[simp] theorem Status.reset_busy : Status.reset.busy = false := rfl
@[simp] theorem Status.reset_done : Status.reset.done = false := rfl
@[simp] theorem Status.reset_err : Status.reset.err = false := rfl
@[simp] theorem Status.reset_errcode : Status.reset.errcode = 0 := rfl
@[simp] theorem Status.reset_overrun : Status.reset.overrun = false := rfl

@[simp] theorem Status.hostWrite_ready (v : Word) : (st.hostWrite v).ready = st.ready := by
  unfold Status.hostWrite; split <;> rfl
@[simp] theorem Status.hostWrite_busy (v : Word) : (st.hostWrite v).busy = st.busy := by
  unfold Status.hostWrite; split <;> rfl
@[simp] theorem Status.hostWrite_done (v : Word) : (st.hostWrite v).done = st.done := by
  unfold Status.hostWrite; split <;> rfl
@[simp] theorem Status.hostWrite_err (v : Word) : (st.hostWrite v).err = st.err := by
  unfold Status.hostWrite; split <;> rfl
@[simp] theorem Status.hostWrite_errcode (v : Word) : (st.hostWrite v).errcode = st.errcode := by
  unfold Status.hostWrite; split <;> rfl

/-- What a STATUS write does to OVERRUN (R32): a 1 in bit 8 clears it. -/
theorem Status.hostWrite_overrun (v : Word) :
    (st.hostWrite v).overrun = (st.overrun && !v.getLsbD 8) := by
  unfold Status.hostWrite; split <;> simp_all

end StatusUpdates

section HoldReset

variable (s : State)

@[simp] theorem holdReset_released (h : s.resetLine = false) : holdReset s = s := by
  simp [holdReset, h]

@[simp] theorem holdReset_asserted (h : s.resetLine = true) : holdReset s = resetRegisters s := by
  simp [holdReset, h]

@[simp] theorem resetRegisters_twice : resetRegisters (resetRegisters s) = resetRegisters s := rfl

@[simp] theorem holdReset_resetLine : (holdReset s).resetLine = s.resetLine := by
  unfold holdReset; split <;> rfl
@[simp] theorem holdReset_program : (holdReset s).program = s.program := by
  unfold holdReset; split <;> rfl
@[simp] theorem holdReset_schedule : (holdReset s).schedule = s.schedule := by
  unfold holdReset; split <;> rfl
@[simp] theorem holdReset_readData : (holdReset s).readData = s.readData := by
  unfold holdReset; split <;> rfl
@[simp] theorem holdReset_freeIndex : (holdReset s).freeIndex = s.freeIndex := by
  unfold holdReset; split <;> rfl
@[simp] theorem holdReset_params : (holdReset s).params = s.params := by
  unfold holdReset; split <;> rfl

end HoldReset

end Sys2Proof.Machine
end

