-- ==== Sys2Proof/Laws/Tables.lean ====
section
/-! SUPPORT. Facts about the square permutations, the bits of a table entry (40_permutation.md R81, R82), and the store PT
(its canonical form, read after write, and what the Builder's writes leave; 70_reset_and_hazards.md R162). -/

namespace Sys2Proof.Machine

/-! ## Square permutations -/

theorem destSquare_lt (k : Fin 8) (i : Nat) (h : i < 16) : destSquare k i < 16 := by
  have : ∀ k : Fin 8, ∀ i : Fin 16, destSquare k i.val < 16 := by decide
  exact this k ⟨i, h⟩

/-- P_(inv k) undoes P_k. -/
theorem destSquare_inv (k : Fin 8) (i : Nat) (h : i < 16) :
    destSquare (invSpatial k) (destSquare k i) = i := by
  have : ∀ k : Fin 8, ∀ i : Fin 16, destSquare (invSpatial k) (destSquare k i.val) = i.val := by decide
  exact this k ⟨i, h⟩

theorem destSquare_inv' (k : Fin 8) (i : Nat) (h : i < 16) :
    destSquare k (destSquare (invSpatial k) i) = i := by
  have : ∀ k : Fin 8, ∀ i : Fin 16, destSquare k (destSquare (invSpatial k) i.val) = i.val := by decide
  exact this k ⟨i, h⟩

theorem destSquare_compose (a b : Fin 8) (i : Nat) (h : i < 16) :
    destSquare b (destSquare a i) = destSquare (composeSpatial a b) i := by
  have : ∀ a b : Fin 8, ∀ i : Fin 16,
      destSquare b (destSquare a i.val) = destSquare (composeSpatial a b) i.val := by decide +kernel
  exact this a b ⟨i, h⟩

theorem destSquare_injective (k : Fin 8) (i j : Nat) (hi : i < 16) (hj : j < 16)
    (h : destSquare k i = destSquare k j) : i = j := by
  rw [← destSquare_inv k i hi, h, destSquare_inv k j hj]

/-! ## Bits of a table entry -/

theorem scatterBit_getLsbD (k : Fin 8) (m acc : Mask) (i j : Nat) (hj : j < 16) :
    (scatterBit k m acc i).getLsbD j = (acc.getLsbD j || (m.getLsbD i && decide (j = destSquare k i))) := by
  unfold scatterBit
  split
  · rename_i hm
    rw [BitVec.getLsbD_or, BitVec.getLsbD_shiftLeft, BitVec.getLsbD_one, hm]
    congr 1
    rw [Bool.eq_iff_iff]
    simp
    omega
  · rename_i hm
    rw [Bool.eq_false_iff.mpr hm, Bool.false_and, Bool.or_false]

theorem foldl_scatterBit_getLsbD (k : Fin 8) (m : Mask) (j : Nat) (hj : j < 16) (l : List Nat) (acc : Mask) :
    (l.foldl (scatterBit k m) acc).getLsbD j
      = (acc.getLsbD j || l.any fun i => m.getLsbD i && decide (j = destSquare k i)) := by
  induction l generalizing acc with
  | nil => simp
  | cons i l ih => simp [ih, scatterBit_getLsbD k m acc i j hj, Bool.or_assoc]

/-- Bit P_k(i) of the image is bit i of the mask (R82). -/
theorem scatter_getLsbD_dest (k : Fin 8) (m : Mask) (i : Nat) (hi : i < 16) :
    (scatter k m).getLsbD (destSquare k i) = m.getLsbD i := by
  have hd := destSquare_lt k i hi
  rw [scatter, foldl_scatterBit_getLsbD k m _ hd]
  rw [show (0 : Mask).getLsbD (destSquare k i) = false from BitVec.getLsbD_zero, Bool.false_or, Bool.eq_iff_iff,
    List.any_eq_true]
  constructor
  · rintro ⟨x, hx, hb⟩
    simp only [Bool.and_eq_true, decide_eq_true_eq] at hb
    rw [destSquare_injective k i x hi (List.mem_range.mp hx) hb.2]
    exact hb.1
  · intro hb
    exact ⟨i, List.mem_range.mpr hi, by simp [hb]⟩

/-- The image read square by square: bit j comes from the square that inv(k) sends j to (R82, R85). -/
theorem scatter_getLsbD (k : Fin 8) (m : Mask) (j : Nat) (hj : j < 16) :
    (scatter k m).getLsbD j = m.getLsbD (destSquare (invSpatial k) j) := by
  have h := scatter_getLsbD_dest k m (destSquare (invSpatial k) j) (destSquare_lt _ j hj)
  rwa [destSquare_inv' k j hj] at h

/-- Two masks are equal when their sixteen bits are. -/
theorem mask_ext (a b : Mask) (h : ∀ j, j < 16 → a.getLsbD j = b.getLsbD j) : a = b :=
  BitVec.eq_of_getLsbD_eq h

/-! ## The store -/

theorem entryIndex_lt (k : Fin 8) (m : Mask) : entryIndex k m < 524288 := by
  have := m.isLt
  unfold entryIndex
  omega

theorem indexTable_entryIndex (k : Fin 8) (m : Mask) : indexTable (entryIndex k m) = k := by
  have := m.isLt
  apply Fin.ext
  simp only [indexTable, entryIndex, Fin.ofNat]
  omega

theorem indexMask_entryIndex (k : Fin 8) (m : Mask) : indexMask (entryIndex k m) = m := by
  have := m.isLt
  apply BitVec.eq_of_toNat_eq
  simp only [indexMask, entryIndex, BitVec.toNat_ofNat]
  omega

/-- Two entries are the same index only when they are the same entry. -/
theorem entryIndex_injective (k k' : Fin 8) (m m' : Mask) (h : entryIndex k m = entryIndex k' m') :
    k = k' ∧ m = m' := by
  constructor
  · rw [← indexTable_entryIndex k m, h, indexTable_entryIndex]
  · rw [← indexMask_entryIndex k m, h, indexMask_entryIndex]

@[simp] theorem unlisted_entryIndex (k : Fin 8) (m : Mask) : Memory.unlisted (entryIndex k m) = scatter k m := by
  rw [Memory.unlisted, indexTable_entryIndex, indexMask_entryIndex]

/-- Every entry of the built store holds its R82 value. -/
@[simp] theorem read_built (k : Fin 8) (m : Mask) : Memory.read Memory.built k m = scatter k m := by
  rw [Memory.read, Memory.built, Memory.readIndex, unlisted_entryIndex]

theorem wf_built : Memory.wf Memory.built = true := rfl

/-- A canonical list from `lo` on reads as unlisted below `lo`. -/
theorem readIndex_below (t : Memory) (lo a : Nat) (h : Memory.wfFrom lo t = true) (ha : a < lo) :
    t.readIndex a = Memory.unlisted a := by
  induction t generalizing lo with
  | nil => rfl
  | cons c rest ih =>
    obtain ⟨b, v⟩ := c
    simp only [Memory.wfFrom, Bool.and_eq_true, decide_eq_true_eq] at h
    rw [Memory.readIndex, if_neg (by omega)]
    exact ih (b + 1) h.2 (by omega)

theorem wfFrom_mono (t : Memory) (lo lo' : Nat) (hle : lo' ≤ lo) (h : Memory.wfFrom lo t = true) :
    Memory.wfFrom lo' t = true := by
  cases t with
  | nil => rfl
  | cons c rest =>
    obtain ⟨b, v⟩ := c
    simp only [Memory.wfFrom, Bool.and_eq_true, decide_eq_true_eq] at h ⊢
    exact ⟨⟨⟨by omega, h.1.1.2⟩, h.1.2⟩, h.2⟩

/-- A write keeps the canonical form. -/
theorem wfFrom_writeIndex (t : Memory) (lo a : Nat) (v : Mask) (hlo : lo ≤ a) (ha : a < 524288)
    (h : Memory.wfFrom lo t = true) : Memory.wfFrom lo (t.writeIndex a v) = true := by
  induction t generalizing lo with
  | nil =>
    rw [Memory.writeIndex]
    split
    · rfl
    · rename_i hv
      simp [Memory.wfFrom, hlo, ha, hv]
  | cons c rest ih =>
    obtain ⟨b, w⟩ := c
    have h' := h
    simp only [Memory.wfFrom, Bool.and_eq_true, decide_eq_true_eq] at h
    rw [Memory.writeIndex]
    split
    · split
      · exact h'
      · rename_i hab hv
        simp only [Memory.wfFrom, Bool.and_eq_true, decide_eq_true_eq]
        exact ⟨⟨⟨hlo, ha⟩, hv⟩, ⟨⟨⟨by omega, h.1.1.2⟩, h.1.2⟩, h.2⟩⟩
    · split
      · rename_i hab heq
        subst heq
        split
        · exact wfFrom_mono rest (a + 1) lo (by omega) h.2
        · rename_i hv
          simp only [Memory.wfFrom, Bool.and_eq_true, decide_eq_true_eq]
          exact ⟨⟨⟨hlo, ha⟩, hv⟩, h.2⟩
      · rename_i hab hne
        simp only [Memory.wfFrom, Bool.and_eq_true, decide_eq_true_eq]
        exact ⟨h.1, ih (b + 1) (by omega) h.2⟩

theorem wf_write (t : Memory) (k : Fin 8) (m v : Mask) (h : t.wf = true) : (t.write k m v).wf = true :=
  wfFrom_writeIndex t 0 (entryIndex k m) v (Nat.zero_le _) (entryIndex_lt k m) h

/-- What any index reads as after a write: the written value there, as before elsewhere. -/
theorem readIndex_writeIndex (t : Memory) (lo a c : Nat) (v : Mask) (h : Memory.wfFrom lo t = true) :
    (t.writeIndex a v).readIndex c = if c = a then v else t.readIndex c := by
  induction t generalizing lo with
  | nil =>
    rw [Memory.writeIndex]
    split <;> rename_i hv <;> by_cases hc : c = a <;> simp_all [Memory.readIndex]
    omega
  | cons cell rest ih =>
    obtain ⟨b, w⟩ := cell
    have h' := h
    simp only [Memory.wfFrom, Bool.and_eq_true, decide_eq_true_eq] at h
    rw [Memory.writeIndex]
    by_cases hab : a < b
    · rw [if_pos hab]
      split
      · rename_i hv
        by_cases hc : c = a
        · subst hc
          rw [if_pos rfl, hv]
          exact readIndex_below ((b, w) :: rest) b c
            (by simp only [Memory.wfFrom, Bool.and_eq_true, decide_eq_true_eq]; exact ⟨⟨⟨Nat.le_refl b, h.1.1.2⟩, h.1.2⟩, h.2⟩)
            hab
        · rw [if_neg hc]
      · rw [Memory.readIndex]
        by_cases hc : c = a
        · simp [hc]
        · rw [if_neg (by omega), if_neg hc]
    · rw [if_neg hab]
      by_cases hab' : a = b
      · subst hab'
        rw [if_pos rfl]
        split
        · rename_i hv
          by_cases hc : c = a
          · subst hc
            rw [if_pos rfl, hv]
            exact readIndex_below rest (c + 1) c h.2 (by omega)
          · rw [if_neg hc, Memory.readIndex, if_neg (by omega)]
        · rw [Memory.readIndex, Memory.readIndex]
          by_cases hc : c = a
          · simp [hc]
          · rw [if_neg (by omega), if_neg hc, if_neg (by omega)]
      · rw [if_neg hab', Memory.readIndex, Memory.readIndex]
        by_cases hc : b = c
        · rw [if_pos hc, if_pos hc, if_neg (by omega)]
        · rw [if_neg hc, if_neg hc]
          exact ih (b + 1) h.2

/-- Read after write in the table store: the written entry reads as written, every other entry as before. -/
theorem read_write (t : Memory) (k k' : Fin 8) (m m' v : Mask) (h : t.wf = true) :
    (t.write k m v).read k' m' = if k' = k ∧ m' = m then v else t.read k' m' := by
  rw [Memory.read, Memory.write, readIndex_writeIndex t 0 _ _ v h]
  by_cases hc : k' = k ∧ m' = m
  · rw [if_pos hc, hc.1, hc.2, if_pos rfl]
  · rw [if_neg hc, if_neg (fun he => hc (entryIndex_injective _ _ _ _ he))]
    rfl

/-- Writing what an unlisted index reads as takes the index out of the list. -/
theorem writeIndex_unlisted (t : Memory) (lo a : Nat) (h : Memory.wfFrom lo t = true) :
    t.writeIndex a (Memory.unlisted a) = t.filter fun c => decide (c.1 ≠ a) := by
  induction t generalizing lo with
  | nil => simp [Memory.writeIndex]
  | cons c rest ih =>
    obtain ⟨b, w⟩ := c
    simp only [Memory.wfFrom, Bool.and_eq_true, decide_eq_true_eq] at h
    have hrest : ∀ (r : Memory) (lo : Nat), Memory.wfFrom lo r = true → a < lo →
        (r.filter fun c => decide (c.1 ≠ a)) = r := by
      intro r
      induction r with
      | nil => intros; rfl
      | cons c r ih =>
        intro lo hr hlt
        obtain ⟨b, w⟩ := c
        simp only [Memory.wfFrom, Bool.and_eq_true, decide_eq_true_eq] at hr
        rw [List.filter_cons_of_pos (by simp; omega), ih (b + 1) hr.2 (by omega)]
    rw [Memory.writeIndex]
    by_cases hab : a < b
    · rw [if_pos hab, if_pos rfl, List.filter_cons_of_pos (by simp; omega), hrest rest (b + 1) h.2 (by omega)]
    · rw [if_neg hab]
      by_cases hab' : a = b
      · subst hab'
        rw [if_pos rfl, if_pos rfl, List.filter_cons_of_neg (by simp), hrest rest (a + 1) h.2 (by omega)]
      · rw [if_neg hab', List.filter_cons_of_pos (by simp; omega), ih (b + 1) h.2]

theorem filter_wfFrom (t : Memory) (lo : Nat) (p : Nat × Mask → Bool) (h : Memory.wfFrom lo t = true) :
    Memory.wfFrom lo (t.filter p) = true := by
  induction t generalizing lo with
  | nil => rfl
  | cons c rest ih =>
    obtain ⟨b, w⟩ := c
    simp only [Memory.wfFrom, Bool.and_eq_true, decide_eq_true_eq] at h
    by_cases hp : p (b, w) = true
    · rw [List.filter_cons_of_pos hp]
      simp only [Memory.wfFrom, Bool.and_eq_true, decide_eq_true_eq]
      exact ⟨h.1, ih (b + 1) h.2⟩
    · rw [List.filter_cons_of_neg hp]
      exact wfFrom_mono _ (b + 1) lo (by omega) (ih (b + 1) h.2)

theorem wfFrom_index_lt (t : Memory) (lo : Nat) (h : Memory.wfFrom lo t = true) : ∀ c ∈ t, c.1 < 524288 := by
  induction t generalizing lo with
  | nil => simp
  | cons c rest ih =>
    obtain ⟨b, w⟩ := c
    simp only [Memory.wfFrom, Bool.and_eq_true, decide_eq_true_eq] at h
    intro c hc
    rcases List.mem_cons.mp hc with rfl | hc
    · exact h.1.1.2
    · exact ih (b + 1) h.2 c hc

/-- The first `n` writes of the Builder's loop leave the listed cells with an index of at least `n`. -/
theorem foldl_write_unlisted (t : Memory) (h : t.wf = true) (n : Nat) :
    (List.range n).foldl (fun u a => Memory.writeIndex u a (Memory.unlisted a)) t
      = t.filter fun c => decide (n ≤ c.1) := by
  induction n with
  | zero => exact (List.filter_eq_self.mpr fun c _ => by simp).symm
  | succ n ih =>
    rw [List.range_succ, List.foldl_append, ih, List.foldl_cons, List.foldl_nil,
      writeIndex_unlisted _ 0 n (filter_wfFrom t 0 _ h), List.filter_filter]
    congr 1
    funext c
    rw [Bool.eq_iff_iff]
    simp
    omega

/-- The Builder's loop of R162 over all 524288 entries, whatever the store held, leaves `Memory.built`: the Builder's step
of the model writes what the rule's loop writes. -/
theorem builder_loop_eq_built (t : Memory) (h : t.wf = true) :
    (List.range 524288).foldl (fun u a => Memory.writeIndex u a (scatter (indexTable a) (indexMask a))) t
      = Memory.built := by
  have hloop := foldl_write_unlisted t h 524288
  rw [show (fun u a => Memory.writeIndex u a (scatter (indexTable a) (indexMask a)))
    = fun u a => Memory.writeIndex u a (Memory.unlisted a) from rfl, hloop, Memory.built, List.filter_eq_nil_iff]
  intro c hc
  have := wfFrom_index_lt t 0 h c hc
  simp
  omega

/-- A canonical store whose every entry reads as R82 says lists nothing. -/
theorem eq_built_of_reads (t : Memory) (h : t.wf = true) (hr : ∀ k m, t.read k m = scatter k m) :
    t = Memory.built := by
  cases t with
  | nil => rfl
  | cons c rest =>
    obtain ⟨b, v⟩ := c
    exfalso
    simp only [Memory.wf, Memory.wfFrom, Bool.and_eq_true, decide_eq_true_eq] at h
    have hb : entryIndex (indexTable b) (indexMask b) = b := by
      simp only [entryIndex, indexTable, indexMask, Fin.ofNat, BitVec.toNat_ofNat]
      omega
    have := hr (indexTable b) (indexMask b)
    rw [Memory.read, hb, Memory.readIndex, if_pos rfl] at this
    exact h.1.2 this

end Sys2Proof.Machine
end

