-- ==== Sys2Proof/Laws/Words.lean ====
section
/-! SUPPORT. Facts about the eight-word states: slots, the element action slot by slot (41_symmetry_apply.md R104), and
disjointness (R107). -/

namespace Sys2Proof.Machine

/-! ## Slots -/

/-- Two states are equal when their eight words are. -/
theorem Words.ext_get (a b : Words) (h : ∀ j, a.get j = b.get j) : a = b := by
  cases a; cases b
  rw [Words.mk.injEq]
  exact ⟨h 0, h 1, h 2, h 3, h 4, h 5, h 6, h 7⟩

theorem Words.get_set (w : Words) (i j : Fin 8) (v : Mask) :
    (w.set j v).get i = if i = j then v else w.get i := by
  revert i j
  intro i j
  match j with
  | 0 | 1 | 2 | 3 | 4 | 5 | 6 | 7 =>
    match i with
    | 0 | 1 | 2 | 3 | 4 | 5 | 6 | 7 => rfl

@[simp] theorem Words.get_zero (j : Fin 8) : Words.zero.get j = 0 := by
  match j with
  | 0 | 1 | 2 | 3 | 4 | 5 | 6 | 7 => rfl

theorem slot_color_shape (j : Fin 8) : slot (slotColor j) (slotShape j) = j := by
  apply Fin.ext
  simp only [slot, slotColor, slotShape]
  omega

@[simp] theorem slotColor_slot (c : Fin 2) (s : Fin 4) : slotColor (slot c s) = c := by
  apply Fin.ext
  simp only [slot, slotColor]
  omega

@[simp] theorem slotShape_slot (c : Fin 2) (s : Fin 4) : slotShape (slot c s) = s := by
  apply Fin.ext
  simp only [slot, slotShape]
  omega

theorem mem_slots (j : Fin 8) : j ∈ slots := by
  revert j; decide

theorem slots_nodup : slots.Nodup := by decide

/-! ## Where an element moves a word -/

theorem swapColor_swapColor (f : Bool) (c : Fin 2) : swapColor f (swapColor f c) = c := by
  revert f c; decide

theorem shapePerm_injective (p : Fin 24) (a b : Fin 4) (h : shapePerm p a = shapePerm p b) : a = b := by
  revert p a b; decide +kernel

theorem destSlot_slot (f : Bool) (p : Fin 24) (c : Fin 2) (s : Fin 4) :
    destSlot f p (slot c s) = slot (swapColor f c) (shapePerm p s) := by
  simp only [destSlot, slotColor_slot, slotShape_slot]

/-- No two words go to one slot (R104). -/
theorem destSlot_injective (f : Bool) (p : Fin 24) (a b : Fin 8) (h : destSlot f p a = destSlot f p b) : a = b := by
  revert f p a b; decide +kernel

/-- Every slot is written (R104). -/
theorem destSlot_surjective (f : Bool) (p : Fin 24) (i : Fin 8) : ∃ j, destSlot f p j = i := by
  revert f p i; decide +kernel

/-! ## The action -/

theorem foldl_actSlot_get (t : Memory) (k : Fin 8) (f : Bool) (p : Fin 24) (w : Words) (l : List (Fin 8)) (out : Words)
    (hl : l.Nodup) (j : Fin 8) :
    (l.foldl (actSlot t k f p w) out).get (destSlot f p j)
      = if j ∈ l then t.read k (w.get j) else out.get (destSlot f p j) := by
  induction l generalizing out with
  | nil => simp
  | cons x l ih =>
    rw [List.nodup_cons] at hl
    rw [List.foldl_cons, ih _ hl.2, actSlot, Words.get_set]
    by_cases hj : j ∈ l
    · rw [if_pos hj, if_pos (List.mem_cons_of_mem x hj)]
    · rw [if_neg hj]
      by_cases hx : j = x
      · subst hx
        rw [if_pos rfl, if_pos List.mem_cons_self]
      · rw [if_neg (fun he => hx (destSlot_injective f p j x he)), if_neg (by simp [hx, hj])]

/-- The word of slot j of the state stands, looked up, in its destination slot of the image (R104). -/
theorem act_get_dest (t : Memory) (g : SymElem) (w : Words) (j : Fin 8) :
    (act t g w).get (destSlot g.f g.p j) = t.read g.k (w.get j) := by
  obtain ⟨k, f, p⟩ := g
  simp only [act, foldl_actSlot_get t k f p w slots Words.zero slots_nodup j, if_pos (mem_slots j)]

/-- An eight-word state with the looked-up words in their destination slots is the image (R104). -/
theorem eq_act_of_dest (t : Memory) (g : SymElem) (w w' : Words)
    (h : ∀ j, w'.get (destSlot g.f g.p j) = t.read g.k (w.get j)) : w' = act t g w := by
  apply Words.ext_get
  intro i
  obtain ⟨j, rfl⟩ := destSlot_surjective g.f g.p i
  rw [h j, act_get_dest]

/-- Two stores that read alike give the same image. -/
theorem act_congr (t u : Memory) (g : SymElem) (w : Words) (h : ∀ k m, t.read k m = u.read k m) :
    act t g w = act u g w := by
  apply eq_act_of_dest
  intro j
  rw [act_get_dest, h]

/-! ## Elements -/

theorem elements_eq_idx : elements = (List.range 384).map elemOfIdx := by decide +kernel

theorem mem_elements (g : SymElem) : g ∈ elements := by
  obtain ⟨k, f, p⟩ := g
  simp only [elements, List.mem_flatMap, List.mem_map, spatialIds, shapePermIds]
  refine ⟨k, by revert k; decide, f, by revert f; decide, p, ⟨p.val, List.mem_range.mpr p.isLt, ?_⟩, rfl⟩
  apply Fin.ext
  simp only [Fin.ofNat]
  omega

theorem elements_cons : elements = ⟨0, false, 0⟩ :: elements.drop 1 := by
  rw [show elements.drop 1 = elements.tail from (List.drop_one : elements.drop 1 = elements.tail)]
  rfl

end Sys2Proof.Machine
end

