-- ==== Sys2Proof/Laws/Exec.lean ====
section
/-! SUPPORT. What a command can do, said once (30_encoding.md R66), and the shared pieces of the commands. -/

namespace Sys2Proof.Machine

/-! ## APPLY's fields -/

theorem elemOfFields_some (k : Fin 8) (f : Bool) (p : Fin 32) (g : SymElem) (h : elemOfFields k f p = some g) :
    g.k = k ∧ g.f = f ∧ g.p.val = p.val := by
  unfold elemOfFields at h
  split at h
  · cases h; exact ⟨rfl, rfl, rfl⟩
  · cases h

theorem elemOfFields_of_lt (k : Fin 8) (f : Bool) (p : Fin 32) (h : p.val < 24) :
    elemOfFields k f p = some ⟨k, f, ⟨p.val, h⟩⟩ := dif_pos h

theorem elemOfFields_eq_none (k : Fin 8) (f : Bool) (p : Fin 32) : elemOfFields k f p = none ↔ 24 ≤ p.val := by
  unfold elemOfFields
  split <;> simp <;> omega

/-! ## What a command can do -/

/-- A command's next state is one of these. -/
inductive ExecOutcome (s : State) : Instr → State → Prop where
  | nop : ExecOutcome s .nop (complete s)
  | perm (k : Fin 8) : ExecOutcome s (.perm k) (complete (setMaskOut (s.pt.read k s.maskIn) s))
  | apply (k : Fin 8) (f : Bool) (p : Fin 32) (g : SymElem) (hg : elemOfFields k f p = some g) (hv : Valid s.wIn) :
      ExecOutcome s (.apply k f p) (complete (writeResult (act s.pt g s.wIn) rawKeyHeader s))
  | applyIllegal (k : Fin 8) (f : Bool) (p : Fin 32) (hp : 24 ≤ p.val) :
      ExecOutcome s (.apply k f p) (raiseError .illegalCmd s)
  | applyInvalid (k : Fin 8) (f : Bool) (p : Fin 32) (hp : p.val < 24) (hv : ¬ Valid s.wIn) :
      ExecOutcome s (.apply k f p) (raiseError .invalidState s)
  | canon (hv : Valid s.wIn) :
      ExecOutcome s .canon (complete (writeResult (words (canonPayload s.pt s.wIn)) (canonKeyHeader s.params) s))
  | canonInvalid (hv : ¬ Valid s.wIn) : ExecOutcome s .canon (raiseError .invalidState s)

theorem exec_outcome (i : Instr) (s t : State) (h : exec i s = .next t) : ExecOutcome s i t := by
  cases i with
  | nop => cases h; exact .nop
  | perm k => cases h; exact .perm k
  | apply k f p =>
    simp only [exec, execApply] at h
    split at h
    · rename_i hn
      cases h
      exact .applyIllegal k f p ((elemOfFields_eq_none k f p).mp hn)
    · rename_i g hg
      split at h
      · rename_i hv
        cases h
        exact .apply k f p g hg hv
      · rename_i hv
        cases h
        refine .applyInvalid k f p ?_ hv
        have := elemOfFields_some k f p g hg
        omega
  | canon =>
    simp only [exec, execCanon] at h
    split at h
    · rename_i hv
      cases h
      exact .canon hv
    · rename_i hv
      cases h
      exact .canonInvalid hv

/-- Every command answers a next state, from every state: none is refused and none faults (60_exceptions.md). -/
theorem exec_next (i : Instr) (s : State) : ∃ t, exec i s = .next t := by
  cases i with
  | nop => exact ⟨_, rfl⟩
  | perm k => exact ⟨_, rfl⟩
  | apply k f p =>
    simp only [exec, execApply]
    split
    · exact ⟨_, rfl⟩
    · split <;> exact ⟨_, rfl⟩
  | canon =>
    simp only [exec, execCanon]
    split <;> exact ⟨_, rfl⟩

/-! ## The comparator -/

theorem lexlt_irrefl (a : List Byte) : lexlt a a = false := by
  induction a with
  | nil => rfl
  | cons x a ih => rw [lexlt, if_pos rfl, ih]

theorem min2_self (a : List Byte) : min2 a a = a := by
  rw [min2]; split <;> rfl

theorem min2_eq_or (a b : List Byte) : min2 a b = a ∨ min2 a b = b := by
  rw [min2]; split
  · exact .inr rfl
  · exact .inl rfl

/-- A reduction gives one of the candidates it is given. -/
theorem reduce_mem (first : List Byte) (rest : List (List Byte)) :
    reduce first rest = first ∨ reduce first rest ∈ rest := by
  induction rest generalizing first with
  | nil => exact .inl rfl
  | cons b rest ih =>
    rw [reduce, List.foldl_cons, ← reduce]
    rcases ih (min2 first b) with h | h
    · rcases min2_eq_or first b with h' | h'
      · exact .inl (h.trans h')
      · exact .inr (by rw [h, h']; exact List.mem_cons_self)
    · exact .inr (List.mem_cons_of_mem b h)

/-- The canonical payload is a candidate of some element (R123). -/
theorem canonPayload_mem (t : Memory) (w : Words) : ∃ g, canonPayload t w = cand t w g := by
  rcases reduce_mem (cand t w ⟨0, false, 0⟩) ((elements.drop 1).map (cand t w)) with h | h
  · exact ⟨_, h⟩
  · obtain ⟨g, _, hg⟩ := List.mem_map.mp h
    exact ⟨g, hg.symm⟩

end Sys2Proof.Machine
end

