-- ==== Sys2Proof/Laws/Bus.lean ====
section
/-! SUPPORT. The register window: each register's offset names it (20_memory.md R41), and what a read and a write can
change (R44). -/

namespace Sys2Proof.Machine

theorem regAt_regOffset (r : Reg) : regAt (regOffset r) = r := by
  cases r with
  | wIn j => revert j; decide
  | wOut j => revert j; decide
  | _ => rfl

/-- The offsets from 0x60 on are reserved (R41). -/
theorem regAt_high (off : Nat) (h : 0x60 ≤ off) : regAt off = .reserved := by
  unfold regAt
  repeat' split
  all_goals first | rfl | omega

/-- The offsets of W_OUT (R41). -/
theorem regAt_wOut (off : Nat) (h : 0x40 ≤ off ∧ off < 0x60) : regAt off = .wOut (Fin.ofNat 8 ((off - 0x40) / 4)) := by
  unfold regAt
  repeat' split
  all_goals first | rfl | omega

theorem accessDefined_regOffset (r : Reg) : accessDefined .w32 (regOffset r) = true := by
  cases r with
  | wIn j => revert j; decide
  | wOut j => revert j; decide
  | _ => rfl

theorem accessDefined_iff (w : Width) (off : Nat) :
    accessDefined w off = true ↔ w = .w32 ∧ off % 4 = 0 ∧ off < 0x100 := by
  simp only [accessDefined, Bool.and_eq_true, decide_eq_true_eq]
  exact and_assoc

section Reads

variable (off : Nat) (s : State)

/-- A read changes only what the host has read and, when it draws a free value, the counter (R44, R49). -/
theorem busRead_eq : busRead off s
    = { s with readData := (busRead off s).readData, freeIndex := (busRead off s).freeIndex } := by
  unfold busRead; split <;> rfl

@[simp] theorem busRead_status : (busRead off s).status = s.status := by rw [busRead_eq]
@[simp] theorem busRead_cmd : (busRead off s).cmd = s.cmd := by rw [busRead_eq]
@[simp] theorem busRead_maskIn : (busRead off s).maskIn = s.maskIn := by rw [busRead_eq]
@[simp] theorem busRead_maskOut : (busRead off s).maskOut = s.maskOut := by rw [busRead_eq]
@[simp] theorem busRead_keyhdr : (busRead off s).keyhdr = s.keyhdr := by rw [busRead_eq]
@[simp] theorem busRead_wIn : (busRead off s).wIn = s.wIn := by rw [busRead_eq]
@[simp] theorem busRead_wOut : (busRead off s).wOut = s.wOut := by rw [busRead_eq]
@[simp] theorem busRead_pt : (busRead off s).pt = s.pt := by rw [busRead_eq]
@[simp] theorem busRead_resetLine : (busRead off s).resetLine = s.resetLine := by rw [busRead_eq]
@[simp] theorem busRead_program : (busRead off s).program = s.program := by rw [busRead_eq]
@[simp] theorem busRead_schedule : (busRead off s).schedule = s.schedule := by rw [busRead_eq]
@[simp] theorem busRead_params : (busRead off s).params = s.params := by rw [busRead_eq]

theorem busRead_readData_of_idle (h : s.status.busy = false) :
    (busRead off s).readData = readReg s (regAt off) := by
  simp [busRead, h]

end Reads

section Writes

/-- A host write's effect is one of these (R43, R44). -/
inductive WriteOutcome (off : Nat) (v : Word) (s : State) : State → Prop where
  | ignored : WriteOutcome off v s s
  | status (h : regAt off = .status) : WriteOutcome off v s (setStatus (s.status.hostWrite v) s)
  | accepted (h : regAt off = .cmd) (hb : s.status.busy = false) : WriteOutcome off v s (acceptCommand v s)
  | maskIn (h : regAt off = .maskIn) (hb : s.status.busy = false) :
      WriteOutcome off v s (setMaskIn (v.extractLsb' 0 16) s)
  | wIn (j : Fin 8) (h : regAt off = .wIn j) (hb : s.status.busy = false) :
      WriteOutcome off v s (setWIn (s.wIn.set j (v.extractLsb' 0 16)) s)
  | dropped (hb : s.status.busy = true) : WriteOutcome off v s (dropWrite s)

theorem busWrite_outcome (off : Nat) (v : Word) (s : State) : WriteOutcome off v s (busWrite off v s) := by
  unfold busWrite
  split <;> rename_i hr
  case h_1 => exact .status hr
  case h_2 =>
    split
    · rename_i hb; exact .dropped hb
    · rename_i hb; exact .accepted hr (Bool.eq_false_iff.mpr hb)
  case h_3 =>
    split
    · rename_i hb; exact .dropped hb
    · rename_i hb; exact .maskIn hr (Bool.eq_false_iff.mpr hb)
  case h_4 j =>
    split
    · rename_i hb; exact .dropped hb
    · rename_i hb; exact .wIn j hr (Bool.eq_false_iff.mpr hb)
  all_goals exact .ignored

end Writes

section WriteFrame

/-- What no host write changes (R44). -/
theorem WriteOutcome.frame (off : Nat) (v : Word) (s t : State) (h : WriteOutcome off v s t) :
    t.maskOut = s.maskOut ∧ t.keyhdr = s.keyhdr ∧ t.wOut = s.wOut ∧ t.pt = s.pt ∧ t.resetLine = s.resetLine
      ∧ t.program = s.program ∧ t.schedule = s.schedule ∧ t.readData = s.readData ∧ t.freeIndex = s.freeIndex ∧ t.params = s.params
      ∧ t.status.ready = s.status.ready := by
  cases h <;> simp

variable (off : Nat) (v : Word) (s : State)

@[simp] theorem busWrite_maskOut : (busWrite off v s).maskOut = s.maskOut :=
  (WriteOutcome.frame off v s _ (busWrite_outcome off v s)).1
@[simp] theorem busWrite_keyhdr : (busWrite off v s).keyhdr = s.keyhdr :=
  (WriteOutcome.frame off v s _ (busWrite_outcome off v s)).2.1
@[simp] theorem busWrite_wOut : (busWrite off v s).wOut = s.wOut :=
  (WriteOutcome.frame off v s _ (busWrite_outcome off v s)).2.2.1
@[simp] theorem busWrite_pt : (busWrite off v s).pt = s.pt :=
  (WriteOutcome.frame off v s _ (busWrite_outcome off v s)).2.2.2.1
@[simp] theorem busWrite_resetLine : (busWrite off v s).resetLine = s.resetLine :=
  (WriteOutcome.frame off v s _ (busWrite_outcome off v s)).2.2.2.2.1
@[simp] theorem busWrite_program : (busWrite off v s).program = s.program :=
  (WriteOutcome.frame off v s _ (busWrite_outcome off v s)).2.2.2.2.2.1
@[simp] theorem busWrite_schedule : (busWrite off v s).schedule = s.schedule :=
  (WriteOutcome.frame off v s _ (busWrite_outcome off v s)).2.2.2.2.2.2.1
@[simp] theorem busWrite_readData : (busWrite off v s).readData = s.readData :=
  (WriteOutcome.frame off v s _ (busWrite_outcome off v s)).2.2.2.2.2.2.2.1
@[simp] theorem busWrite_freeIndex : (busWrite off v s).freeIndex = s.freeIndex :=
  (WriteOutcome.frame off v s _ (busWrite_outcome off v s)).2.2.2.2.2.2.2.2.1
@[simp] theorem busWrite_params : (busWrite off v s).params = s.params :=
  (WriteOutcome.frame off v s _ (busWrite_outcome off v s)).2.2.2.2.2.2.2.2.2.1
@[simp] theorem busWrite_ready : (busWrite off v s).status.ready = s.status.ready :=
  (WriteOutcome.frame off v s _ (busWrite_outcome off v s)).2.2.2.2.2.2.2.2.2.2

end WriteFrame

end Sys2Proof.Machine
end

