-- ==== Sys2Proof/Laws/PerInstr.lean ====
section
/-! SUPPORT. Facts about every command as syntax, one lemma per constructor of Instr: field OP of its word is the
operation number of 30_encoding.md R66. -/

namespace Sys2Proof.Laws

/-- The operation number of a command (R66). -/
def opNumber : Instr → Nat
  | .nop => 0x0
  | .perm _ => 0x1
  | .apply _ _ _ => 0x2
  | .canon => 0x3

/-- The encoded word's OP field is the command's operation number. -/
def OpField.Statement (i : Instr) : Prop := fieldOp (encode i) = opNumber i

theorem OpField.nop : OpField.Statement .nop := by
  unfold OpField.Statement; decide

theorem OpField.perm (k : Fin 8) : OpField.Statement (.perm k) := by
  unfold OpField.Statement; revert k; decide

theorem OpField.apply (k : Fin 8) (f : Bool) (p : Fin 32) : OpField.Statement (.apply k f p) := by
  unfold OpField.Statement; revert k f p; decide +kernel

theorem OpField.canon : OpField.Statement .canon := by
  unfold OpField.Statement; decide

end Sys2Proof.Laws
end

