-- ==== Sys2Proof/Laws/Step.lean ====
section
/-! SUPPORT. What a step can do, said once: which agent moved and with which effect (00_scope.md R7). -/

namespace Sys2Proof.Machine

/-- What a host's turn can do, from the state it finds. -/
inductive HostOutcome (s : State) : State → Prop where
  | nothing (h : s.program = []) : HostOutcome s s
  | read (w : Width) (off : Nat) (rest : List HostOp) (h : s.program = .read w off :: rest)
      (hd : accessDefined w off = true) : HostOutcome s (setProgram rest (busRead off s))
  | write (w : Width) (off : Nat) (v : Word) (rest : List HostOp) (h : s.program = .write w off v :: rest)
      (hd : accessDefined w off = true) (hr : s.resetLine = false) :
      HostOutcome s (setProgram rest (busWrite off v s))
  | writeInReset (w : Width) (off : Nat) (v : Word) (rest : List HostOp) (h : s.program = .write w off v :: rest)
      (hd : accessDefined w off = true) (hr : s.resetLine = true) : HostOutcome s (setProgram rest s)
  | pollDone (bit : Fin 32) (rest : List HostOp) (h : s.program = .readUntil bit :: rest)
      (hb : s.status.word.getLsbD bit.val = true) :
      HostOutcome s (setProgram rest (busRead statusOffset s))
  | pollAgain (bit : Fin 32) (rest : List HostOp) (h : s.program = .readUntil bit :: rest)
      (hb : s.status.word.getLsbD bit.val = false) : HostOutcome s (busRead statusOffset s)
  | assertReset (rest : List HostOp) (h : s.program = .assertReset :: rest) :
      HostOutcome s (setProgram rest (setResetLine true (resetRegisters s)))
  | releaseReset (rest : List HostOp) (h : s.program = .releaseReset :: rest) :
      HostOutcome s (setProgram rest (setResetLine false (holdReset s)))

theorem hostStep_outcome (s t : State) (h : hostStep s = .next t) : HostOutcome s t := by
  unfold hostStep at h
  split at h <;> rename_i hp
  case h_1 => cases h; exact .nothing hp
  case h_2 w off rest =>
    split at h
    · rename_i hd; cases h; exact .read w off rest hp hd
    · cases h
  case h_3 w off v rest =>
    split at h
    · rename_i hd
      cases h
      by_cases hr : s.resetLine = true
      · rw [if_pos hr]; exact .writeInReset w off v rest hp hd hr
      · rw [if_neg hr]; exact .write w off v rest hp hd (Bool.eq_false_iff.mpr hr)
    · cases h
  case h_4 bit rest =>
    cases h
    by_cases hb : s.status.word.getLsbD bit.val = true
    · rw [if_pos hb]; exact .pollDone bit rest hp hb
    · rw [if_neg hb]; exact .pollAgain bit rest hp (Bool.eq_false_iff.mpr hb)
  case h_5 rest => cases h; exact .assertReset rest hp
  case h_6 rest => cases h; exact .releaseReset rest hp
  case h_7 => cases h

/-- What one agent's turn can do (R7, R162, R168). A turn that passes (entry 15) is the Engine's or the Builder's. -/
inductive AgentOutcome (s : State) : Agent → State → Prop where
  | host (t : State) (h : HostOutcome s t) : AgentOutcome s .host t
  | command (i : Instr) (t : State) (he : engineEnabled s = true) (hd : decode s.cmd = .ok i)
      (h : ExecOutcome s i t) : AgentOutcome s .engine t
  | illegal (e : DecodeError) (he : engineEnabled s = true) (hd : decode s.cmd = .error e) :
      AgentOutcome s .engine (raiseError .illegalCmd s)
  | waiting (he : engineEnabled s = false) : AgentOutcome s .engine s
  | built (hb : builderEnabled s = true) : AgentOutcome s .builder (builderStep s)
  | noBuild (hb : builderEnabled s = false) : AgentOutcome s .builder s

theorem agentStep_outcome (a : Agent) (s t : State) (h : agentStep a s = .next t) : AgentOutcome s a t := by
  cases a with
  | host => exact .host t (hostStep_outcome s t h)
  | engine =>
    simp only [agentStep] at h
    split at h
    · rename_i he
      unfold engineStep at h
      split at h
      · rename_i i hd; exact .command i t he hd (exec_outcome i s t h)
      · rename_i e hd; cases h; exact .illegal e he hd
    · rename_i he; cases h; exact .waiting (Bool.eq_false_iff.mpr he)
  | builder =>
    simp only [agentStep] at h
    split at h
    · rename_i hb; cases h; exact .built hb
    · rename_i hb; cases h; exact .noBuild (Bool.eq_false_iff.mpr hb)

/-! ## The machine's step -/

theorem nextAgent_scheduled (s : State) (a : Agent) (rest : List Agent) (h : s.schedule = a :: rest) :
    nextAgent s = a := by
  unfold nextAgent; rw [h]

theorem nextAgent_unscheduled (s : State) (h : s.schedule = []) : nextAgent s = defaultAgent s := by
  unfold nextAgent; rw [h]

theorem errcodeBad_eq_false (s : State) : errcodeBad s = false ↔ s.status.errcode.toNat ≤ 2 := by
  unfold errcodeBad
  rw [decide_eq_false_iff_not]
  omega

/-- A step with a legal ERRCODE is the next agent's, on the state with reset looked at and its turn taken. -/
theorem step_eq (s : State) (he : s.status.errcode.toNat ≤ 2) :
    step s = agentStep (nextAgent (holdReset s)) (setSchedule s.schedule.tail (holdReset s)) := by
  unfold step turn
  rw [if_neg (by rw [(errcodeBad_eq_false s).mpr he]; decide), holdReset_schedule]

/-- A step whose turn the schedule gives. -/
theorem step_scheduled (s : State) (a : Agent) (rest : List Agent) (he : s.status.errcode.toNat ≤ 2)
    (hs : s.schedule = a :: rest) : step s = agentStep a (setSchedule rest (holdReset s)) := by
  rw [step_eq s he, nextAgent_scheduled (holdReset s) a rest (by simpa using hs), hs, List.tail_cons]

/-- A step that answers a next state: ERRCODE was legal, the registers were held if reset is asserted, and the next agent
moved, its turn taken off the schedule. -/
theorem step_outcome (s t : State) (h : step s = .next t) :
    errcodeBad s = false
      ∧ AgentOutcome (setSchedule s.schedule.tail (holdReset s)) (nextAgent (holdReset s)) t := by
  cases hb : errcodeBad s with
  | true => rw [step, if_pos hb] at h; cases h
  | false =>
    rw [step_eq s ((errcodeBad_eq_false s).mp hb)] at h
    exact ⟨rfl, agentStep_outcome _ _ _ h⟩

end Sys2Proof.Machine
end

