-- ==== Sys2Proof/Tests/Slice0.lean ====
section
/-! SUPPORT. The model's own small tests, and a witness for every statement that has hypotheses. Every expected value is
from spec/: the vectors of 95_test_vectors.md unless a line names another file. -/

namespace Sys2Proof.Tests

open Sys2Proof.Machine

/-! ## Helpers -/

/-- READY = 1, every other register at its reset value (L3). -/
def ready0 : State := builderStep State.reset

/-- `ready0` with a board state in W_IN. -/
def readyWith (w : Words) : State := setWIn w ready0

/-- `ready0` with a command word pending. -/
def pendingWord (v : Word) : State := acceptCommand v ready0

/-- A state whose next turn is the host's, with one access to make. -/
def hostTurn (op : HostOp) (s : State) : State := setSchedule [.host] (setProgram [op] s)

/-- The win state of L2-B. -/
def winState : Words := ⟨0x0001, 0, 0x0004, 0, 0, 0x0002, 0, 0x0008⟩

/-- An overlap across colours, of L2-B. -/
def overlapping : Words := ⟨0x0001, 0, 0, 0, 0x0001, 0, 0, 0⟩

/-- What a test looks at in a next state. -/
def after {α : Type} (r : Result) (f : State → α) : Option α :=
  match r with
  | .next t => some (f t)
  | .fault _ => none
  | .refused _ => none

/-! ## WellFormed: the one check, and a term it refuses -/

theorem test_apply_24_is_ill_formed : (Instr.apply 0 false 24).WellFormed = false := by decide
theorem test_apply_31_is_ill_formed : (Instr.apply 7 true 31).WellFormed = false := by decide
theorem test_apply_23_is_well_formed : (Instr.apply 7 true 23).WellFormed = true := by decide

/-! ## Decoding: words written out from the fields of 30_encoding.md R61 (RSV, S, X, T, OP), as L2-D lists them -/

theorem test_decode_nop : decode (0#19 ++ 0#5 ++ 0#1 ++ 0#3 ++ 0x0#4) = .ok .nop := by decide
theorem test_decode_perm : decode (0#19 ++ 0#5 ++ 0#1 ++ 7#3 ++ 0x1#4) = .ok (.perm 7) := by decide
theorem test_decode_apply : decode (0#19 ++ 23#5 ++ 1#1 ++ 1#3 ++ 0x2#4) = .ok (.apply 1 true 23) := by decide
theorem test_decode_canon : decode (0#19 ++ 0#5 ++ 0#1 ++ 0#3 ++ 0x3#4) = .ok .canon := by decide
theorem test_decode_legal_words :
    [0x00000000#32, 0x00000011, 0x00000071, 0x00000002, 0x00001792, 0x000017F2, 0x00000003].map decode
      = [.ok .nop, .ok (.perm 1), .ok (.perm 7), .ok (.apply 0 false 0), .ok (.apply 1 true 23),
          .ok (.apply 7 true 23), .ok .canon] := by decide
theorem test_decode_illegal_words :
    [0x00000010#32, 0x00000081, 0x01000001, 0x00001802, 0x00001F02, 0x00002002, 0x00000013, 0x80000003,
      0x00000004, 0x0000000F, 0xFFFFFFFF].map decode
      = [.error .strayBits, .error .strayBits, .error .strayBits, .error (.noSuchPermutation 24),
          .error (.noSuchPermutation 31), .error .strayBits, .error .strayBits, .error .strayBits,
          .error (.reservedOp 4), .error (.reservedOp 15), .error (.reservedOp 15)] := by decide
theorem test_encode_examples :
    [Instr.perm 1, .apply 1 true 23, .apply 7 true 23, .apply 6 true 5].map encode
      = [0x00000011#32, 0x00001792, 0x000017F2, 0x000005E2] := by decide
theorem test_decode_bytes_lane_0_first : decodeBytes [0x92, 0x17, 0x00, 0x00] = .ok (.apply 1 true 23) := by decide
theorem test_decode_three_bytes : decodeBytes [0x92, 0x17, 0x00] = .error .notOneWord := by decide
theorem test_table_words :
    [decodeTableWord 32 0x00000000, decodeTableWord 32 0x00000071, decodeTableWord 32 0x00001792,
      decodeTableWord 32 0x00000003, decodeTableWord 32 0x00001802]
      = [some .nop, some (.perm 7), some (.apply 1 true 23), some .canon, none] := by decide
theorem test_fetch_word_runs_next :
    step (State.reset.withFetchWord 32 0x00000071) = exec (.perm 7) (State.reset.withFetchWord 32 0x00000071) := rfl

/-! ## The commands (L2-A, L2-B, L2-C, L2-E) -/

theorem test_nop_status : after (step (pendingWord 0x00000000)) (fun t => t.status.word) = some 0x00000005 := by decide
theorem test_nop_with_field_t : after (step (pendingWord 0x00000010)) (fun t => t.status.word) = some 0x0000001D := by
  decide
theorem test_perm_square_1 :
    spatialIds.map (fun k => after (exec (.perm k) (setMaskIn 0x0002 ready0)) (fun t => t.maskOut))
      = [0x0002, 0x0080, 0x4000, 0x0100, 0x0004, 0x2000, 0x0010, 0x0800].map some := by decide +kernel
theorem test_perm_with_field_x :
    after (step (acceptCommand 0x00000081 (setMaskIn 0x0001 ready0))) (fun t => (t.status.word, t.maskOut))
      = some (0x0000001D, 0x0000) := by decide
theorem test_apply_ta_swap_2310 :
    after (step (acceptCommand 0x000011F2 (readyWith winState))) (fun t => (t.wOut, t.keyhdr, t.status.word))
      = some (⟨0x0008, 0, 0, 0x0800, 0, 0x0080, 0x8000, 0⟩, 0x0001, 0x00000005) := by decide +kernel
theorem test_apply_overlap_across_colours :
    after (step (acceptCommand 0x00000002 (readyWith overlapping))) (fun t => (t.wOut, t.keyhdr, t.status.word))
      = some (Words.zero, 0x0000, 0x0000002D) := by decide +kernel
theorem test_canon_c8 :
    after (exec .canon (readyWith ⟨0x0011, 0x0200, 0, 0x8000, 0x0040, 0, 0x1000, 0x0002⟩))
        (fun t => (t.wOut, t.keyhdr, t.status.word))
      = some (⟨0, 0x0100, 0x8000, 0x0020, 0x0400, 0x0008, 0, 0x3000⟩, 0x0201, 0x00000005) := by decide +kernel
theorem test_canon_word_wins_over_overlap :
    after (step (acceptCommand 0x00000013 (readyWith overlapping))) (fun t => t.status.word)
      = some 0x0000001D := by decide +kernel

/-! ## Host, Builder and reset (L2-E, L3-5, 20_memory.md, 70_reset_and_hazards.md) -/

theorem test_cap_from_reset : after (step (hostTurn (hostRd 0x00) State.reset)) (fun t => t.readData)
    = some 0x00180801 := by decide
theorem test_operand_write_keeps_low_half : (busWrite 0x10 0xFFFF0001 ready0).maskIn = 0x0001 := by decide
theorem test_write_while_busy_sets_overrun :
    after (step (hostTurn (hostWr 0x20 0x00008000) (pendingWord 0x00000003))) (fun t => (t.status.word, t.wIn))
      = some (0x00000103, Words.zero) := by decide
theorem test_clear_overrun :
    ((busWrite 0x04 0x000000FF (dropWrite ready0)).status.word, (busWrite 0x04 0x00000100 (dropWrite ready0)).status.word)
      = (0x00000101, 0x00000001) := by decide
theorem test_command_before_ready :
    after (step (acceptCommand 0 State.reset)) (fun t => t.status.word) = some 0x00000003 := by decide
theorem test_narrow_access_refused :
    step (hostTurn (.read .w8 0x00) ready0) = .refused .undefinedAccess := rfl
theorem test_second_host_refused : step (hostTurn .foreignAccess ready0) = .refused .secondHost := rfl
theorem test_errcode_3_faults :
    step (setStatus { Status.reset with done := true, err := true, errcode := 3 } ready0)
      = .fault .errcodeNeverProduced := rfl
theorem test_reset_abandons_a_command :
    after (step (hostTurn .assertReset (pendingWord 0x00000003))) (fun t => (t.status.word, t.cmd, t.resetLine))
      = some (0, 0, true) := by decide

theorem test_release_gives_reset_values_once_more :
    after (step (hostTurn .releaseReset (setResetLine true (pendingWord 0x00000003))))
        (fun t => (t.status.word, t.cmd, t.resetLine))
      = some (0, 0, false) := by decide

/-! ## Program text (30_encoding.md R71, R72) -/

theorem test_assemble_apply_names : assemble "apply" ["r90", "swap", "p3210"] = some (.apply 1 true 23) := by decide
theorem test_assemble_rejects_24 : assemble "apply" ["0", "0", "24"] = none := by decide
theorem test_host_command_text : hostCmd (.perm 1) = [.write .w32 0x08 0x00000011] := by decide
/-- Step 4 of L3-4. -/
theorem test_ldstate_text :
    hostLdstate (fun j => if j.val < 2 then 0x0001 else 0)
      = [hostWr 0x20 1, hostWr 0x24 1, hostWr 0x28 0, hostWr 0x2C 0, hostWr 0x30 0, hostWr 0x34 0, hostWr 0x38 0,
          hostWr 0x3C 0] := by decide

/-! ## Witnesses: for each statement with hypotheses, a concrete state and operands that meet them, clause by clause -/

/-- A ready state whose tables hold. -/
theorem tables_ready0 : TablesHold ready0 ∧ ready0.status.ready = true :=
  ⟨fun _ k m => unlisted_entryIndex k m, rfl⟩

theorem tables_readyWith (w : Words) : TablesHold (readyWith w) ∧ (readyWith w).status.ready = true :=
  ⟨fun _ k m => unlisted_entryIndex k m, rfl⟩

/-- A way to show small states legal. -/
theorem legal_of (s : State) (hp : s.pt = []) (hr : s.resetLine = false) (hk : s.keyhdr = 0) (ho : s.wOut = Words.zero)
    (hs : StatusLegal s.status) : Legal s where
  status := hs
  tables := fun _ k m => by rw [hp]; exact unlisted_entryIndex k m
  memory := by rw [hp]; rfl
  held := fun h => by rw [hr] at h; cases h
  keyhdr := .inl hk
  result := by rw [ho]; decide
  noKey := fun _ => ho

theorem legal_ready0 : Legal ready0 :=
  legal_of _ rfl rfl rfl rfl ⟨by decide, by decide, by decide, by decide⟩

theorem legal_pending (v : Word) : Legal (pendingWord v) :=
  have hs : StatusLegal (pendingWord 0).status := ⟨by decide, by decide, by decide, by decide⟩
  legal_of _ rfl rfl rfl rfl hs

theorem witness_DecodeAfterEncodeAgrees :
    (Instr.apply 7 true 23).WellFormed = true ∧ (Instr.apply 0 false 0).WellFormed = true
      ∧ encode (.apply 7 true 23) = encode (.apply 7 true 23) ∧ (23 : Fin 32).val ≤ 23 := by decide

theorem witness_DecodedWordIsItsEncoding : decode 0x000017F2 = .ok (.apply 7 true 23) := by decide

theorem witness_AssemblerWritesOnlyLegalWords :
    assemble "apply" ["ta", "keep", "23"] = some (.apply 7 false 23) ∧ assemble "canon" [] = some .canon := by decide

theorem witness_TableEntryIsTheBitPermutation :
    TablesHold ready0 ∧ ready0.status.ready = true ∧ 0 < 16 ∧ 15 < 16 :=
  ⟨tables_ready0.1, tables_ready0.2, by decide, by decide⟩

theorem witness_EveryTableKeepsMaskStructure :
    TablesHold ready0 ∧ ready0.status.ready = true ∧ ready0.pt.read 7 0x8000 = ready0.pt.read 7 0x8000
      ∧ (0x000F#16 &&& 0xFFF0#16 = 0#16) ∧ 0x000F#16 ∈ [0x000F#16, 0x8888#16] ∧ 0xCC00#16 ∈ [0x0033#16, 0xCC00#16] :=
  ⟨tables_ready0.1, tables_ready0.2, rfl, by decide, by decide, by decide⟩

theorem witness_TablesComposeByTheGroupTable :
    (TablesHold ready0 ∧ ready0.status.ready = true) ∧ ∀ m, ready0.pt.read 7 m = ready0.pt.read 7 m :=
  ⟨tables_ready0, fun _ => rfl⟩

theorem witness_InverseTableUndoesTheTable :
    TablesHold ready0 ∧ ready0.status.ready = true ∧ (4 : Fin 8) ≤ 7 ∧ (4 : Fin 8) ≤ 4 :=
  ⟨tables_ready0.1, tables_ready0.2, by decide, by decide⟩

theorem witness_NopOnlyCompletes :
    (0x00000010#32).toNat % 16 = 0 ∧ 0x00000010#32 ≠ 0 ∧ State.reset.status.ready = false := by decide

theorem witness_PermWritesTheImage :
    (TablesHold ready0 ∧ ready0.status.ready = true) ∧ (setMaskIn 0x0000 ready0).maskIn = 0x0000#16
      ∧ (setMaskIn 0xFFFF ready0).maskIn = 0xFFFF#16 ∧ (setMaskIn 0x000F ready0).maskIn = 0x000F#16
      ∧ (0x00000081#32).toNat % 16 = 1 ∧ (0x00000081#32).toNat / 128 ≠ 0 :=
  ⟨tables_ready0, rfl, rfl, rfl, by decide, by decide⟩

theorem witness_ApplyWritesTheImage :
    (TablesHold (readyWith winState) ∧ (readyWith winState).status.ready = true) ∧ Valid (readyWith winState).wIn
      ∧ (readyWith Words.zero).wIn = Words.zero ∧ Valid (readyWith Words.zero).wIn :=
  ⟨tables_readyWith winState, by decide, rfl, by decide⟩

theorem witness_CanonWritesTheLeastCandidate : Valid (readyWith winState).wIn ∧ Valid (readyWith Words.zero).wIn := by
  decide

theorem witness_KeyHeadersAfterResults :
    Valid (readyWith winState).wIn ∧ (23 : Fin 32).val ≤ 23
      ∧ (∃ t, exec .canon (readyWith winState) = .next t) ∧ ∃ t, exec (.apply 7 true 23) (readyWith winState) = .next t :=
  ⟨by decide, by decide, exec_next _ _, exec_next _ _⟩

theorem witness_OverlappingInputIsReported :
    ¬ Valid (readyWith overlapping).wIn ∧ (23 : Fin 32).val ≤ 23 ∧ (∃ t, exec .nop (readyWith overlapping) = .next t)
      ∧ ∃ t, exec (.perm 7) (readyWith overlapping) = .next t :=
  ⟨by decide, by decide, exec_next _ _, exec_next _ _⟩

/-- One word for each way to be illegal, at its boundary. -/
theorem witness_IllegalWordIsReported :
    [0x00000004#32, 0x0000000F, 0x00000010, 0x00000013, 0x00000081, 0x00002002, 0x00001802].all
      (fun v => (pendingWord v).status.busy && (pendingWord v).status.ready
        && match decode (pendingWord v).cmd with
          | .ok _ => false
          | .error _ => true) = true := by decide

theorem witness_IllegalWordWinsOverInvalidState :
    (acceptCommand 0x00000013 (readyWith overlapping)).status.busy = true
      ∧ (acceptCommand 0x00000013 (readyWith overlapping)).status.ready = true
      ∧ decode (acceptCommand 0x00000013 (readyWith overlapping)).cmd = .error .strayBits
      ∧ ¬ Valid (acceptCommand 0x00000013 (readyWith overlapping)).wIn ∧ 24 ≤ (24 : Fin 32).val ∧ 24 ≤ (31 : Fin 32).val := by
  decide

theorem witness_CommandsWriteOnlyTheirRegisters :
    (∀ i : Instr, ∃ t, exec i (readyWith winState) = .next t)
      ∧ (∃ t, exec .canon (readyWith overlapping) = .next t ∧ (readyWith overlapping).status.err = false
          ∧ t.status.err = true)
      ∧ (∃ u, exec (.perm 1) (setWIn overlapping ready0) = .next u)
      ∧ decode (pendingWord 0x00000004).cmd = .error (.reservedOp 4)
      ∧ agentStep .engine (pendingWord 0x00000004) = .next (raiseError .illegalCmd (pendingWord 0x00000004)) :=
  ⟨fun i => exec_next i _,
    ⟨raiseError .invalidState (readyWith overlapping), by rw [exec, execCanon, if_neg (by decide)], rfl, rfl⟩, exec_next _ _, by decide, rfl⟩

theorem witness_CanonDependsOnInputAlone :
    (readyWith winState).wIn = (acceptCommand 0x00000003 (readyWith winState)).wIn
      ∧ (readyWith winState).params = (acceptCommand 0x00000003 (readyWith winState)).params
      ∧ Valid (readyWith winState).wIn ∧ TablesHold (acceptCommand 0x00000003 (readyWith winState))
      ∧ (acceptCommand 0x00000003 (readyWith winState)).status.ready = true
      ∧ (∃ t, exec .canon (readyWith winState) = .next t)
      ∧ ∃ v, exec .canon (acceptCommand 0x00000003 (readyWith winState)) = .next v :=
  ⟨rfl, rfl, by decide, fun _ k m => unlisted_entryIndex k m, rfl, exec_next _ _, exec_next _ _⟩

theorem witness_SerAndWordsAreInverse : (List.replicate 16 0xFF#8).length = 16 := rfl

theorem witness_ByteOrderIsStrictTotal :
    (ser ⟨0, 0, 0, 0, 0, 0, 0, 0⟩).length = 16
      ∧ lexlt (ser Words.zero) (ser ⟨0x0100, 0, 0, 0, 0, 0, 0, 0⟩) = true
      ∧ lexlt (ser ⟨0x0100, 0, 0, 0, 0, 0, 0, 0⟩) (ser ⟨0x0001, 0, 0, 0, 0, 0, 0, 0⟩) = true
      ∧ (Words.set Words.zero 0 0x0100).get 0 = 0x0100#16 ∧ (Words.set Words.zero 0 0x0001).get 0 = 0x0001#16 := by decide

/-- On the empty board all candidates tie (L2-C1), so the zero payload is the least; the balanced tree has every leaf. -/
theorem witness_EveryComparatorTreeGivesThePayload :
    LeastOf (ser Words.zero) (cand [] Words.zero) ∧ (ser winState).length = 16
      ∧ ∀ n, n ∈ (CmpTree.balanced 9 0 384).leaves ↔ n < 384 := by
  refine ⟨⟨⟨⟨0, false, 0⟩, by decide +kernel⟩, ?_⟩, rfl, ?_⟩
  · rintro ⟨k, f, p⟩; revert k f p; decide +kernel
  · intro n
    rw [show (CmpTree.balanced 9 0 384).leaves = List.range 384 by decide +kernel, List.mem_range]

theorem witness_CanonIsOrbitInvariant :
    (TablesHold (readyWith winState) ∧ (readyWith winState).status.ready = true) ∧ Valid (readyWith winState).wIn
      ∧ (23 : Fin 32).val ≤ 23
      ∧ ∃ t u v, exec (.apply 7 true 23) (readyWith winState) = .next t ∧ exec .canon (readyWith winState) = .next u
          ∧ exec .canon { t with wIn := t.wOut } = .next v := by
  obtain ⟨t, ht⟩ := exec_next (.apply 7 true 23) (readyWith winState)
  obtain ⟨u, hu⟩ := exec_next .canon (readyWith winState)
  obtain ⟨v, hv⟩ := exec_next .canon { t with wIn := t.wOut }
  exact ⟨tables_readyWith winState, by decide, by decide, t, u, v, ht, hu, hv⟩

theorem witness_CanonIsMinimalAndIdempotent :
    (TablesHold (readyWith winState) ∧ (readyWith winState).status.ready = true) ∧ Valid (readyWith winState).wIn
      ∧ ∃ t u, exec .canon (readyWith winState) = .next t ∧ exec .canon { t with wIn := t.wOut } = .next u := by
  obtain ⟨t, ht⟩ := exec_next .canon (readyWith winState)
  obtain ⟨u, hu⟩ := exec_next .canon { t with wIn := t.wOut }
  exact ⟨tables_readyWith winState, by decide, t, u, ht, hu⟩

theorem witness_CanonKeepsPiecesAndOccupancy :
    (TablesHold (readyWith winState) ∧ (readyWith winState).status.ready = true) ∧ Valid winState :=
  ⟨tables_readyWith winState, by decide⟩

/-- The inverse permutations, the reversed numbering, and both families of images, of the win state. -/
theorem witness_CanonIgnoresNumberingConventions :
    (TablesHold ready0 ∧ ready0.status.ready = true) ∧ Valid winState
      ∧ (∀ k, ∃ k', invSpatial k' = k) ∧ (∀ p : Fin 24, ∃ p', Fin.rev p' = p)
      ∧ (∃ img : SymElem → Words, ∀ (g : SymElem) (c : Fin 2) (h : Fin 4) (i : Nat), i < 16 →
          ((img g).get (slot (swapColor g.f c) (shapePerm g.p h))).getLsbD i
            = (winState.get (slot c h)).getLsbD (destSquare g.k i))
      ∧ (∃ img : SymElem → Words, ∀ (g : SymElem) (c : Fin 2) (h : Fin 4),
          (img g).get (slot (swapColor g.f c) h) = ready0.pt.read g.k (winState.get (slot c (shapePerm g.p h)))) := by
  refine ⟨tables_ready0, by decide, by decide, fun p => ⟨Fin.rev p, Fin.rev_rev p⟩, ?_, ?_⟩
  · refine ⟨fun g => act [] ⟨invSpatial g.k, g.f, g.p⟩ winState, fun g c h i hi => ?_⟩
    have hd := act_get_dest [] ⟨invSpatial g.k, g.f, g.p⟩ winState (slot c h)
    rw [destSlot_slot] at hd
    rw [hd]
    have hr : Memory.read [] (invSpatial g.k) (winState.get (slot c h)) = scatter (invSpatial g.k) (winState.get (slot c h)) :=
      unlisted_entryIndex _ _
    rw [hr, scatter_getLsbD _ _ i hi, show invSpatial (invSpatial g.k) = g.k by generalize g.k = k; revert k; decide]
  · let word (g : SymElem) (j : Fin 8) : Mask :=
      ready0.pt.read g.k (winState.get (slot (swapColor g.f (slotColor j)) (shapePerm g.p (slotShape j))))
    refine ⟨fun g => ⟨word g 0, word g 1, word g 2, word g 3, word g 4, word g 5, word g 6, word g 7⟩, ?_⟩
    rintro ⟨k, f, p⟩ c h
    have hw : ∀ (v : Fin 8 → Mask) (j : Fin 8), Words.get ⟨v 0, v 1, v 2, v 3, v 4, v 5, v 6, v 7⟩ j = v j := by
      intro v j
      match j with
      | 0 | 1 | 2 | 3 | 4 | 5 | 6 | 7 => rfl
    refine (hw (word ⟨k, f, p⟩) _).trans ?_
    simp only [word, slotColor_slot, slotShape_slot, swapColor_swapColor]

theorem witness_ElementIndexIsOneToOne : 0 < 384 ∧ 383 < 384 := by decide

theorem witness_ShapePermutationsInOrder :
    (shapePerm 0 0 = shapePerm 0 0) ∧ ∀ a b : Fin 4, Fin.rev a = Fin.rev b → a = b := by decide

theorem witness_ElementPartsCommute : TablesHold ready0 ∧ ready0.status.ready = true := tables_ready0

theorem witness_ElementsActAsAGroup :
    (TablesHold ready0 ∧ ready0.status.ready = true) ∧ (∀ h, shapePerm 0 h = shapePerm 23 (shapePerm 23 h))
      ∧ (∀ h, shapePerm 13 (shapePerm 10 h) = h) ∧ ∃ h, act ready0.pt h winState = winState :=
  ⟨tables_ready0, by decide, by decide, ⟨0, false, 0⟩, by decide +kernel⟩

theorem witness_ActionMovesWholeLanes :
    (TablesHold ready0 ∧ ready0.status.ready = true) ∧ Valid winState
      ∧ (7 : Fin 8).val = 4 * ((0 : Fin 2).val ^^^ true.toNat) + (shapePerm 23 0).val ∧ destSlot true 23 0 = 7 :=
  ⟨tables_ready0, by decide, by decide, by decide⟩

theorem witness_RegisterMapOfTheWindow :
    ready0.status.busy = false ∧ (0x60 ≤ 0x60 ∧ 0x60 ≤ 0xFC) ∧ (0x60 ≤ 0xFC ∧ 0xFC ≤ 0xFC) := by decide

theorem witness_CapIsConstant :
    (hostTurn (hostRd 0x00) ready0).status.errcode.toNat ≤ 2 ∧ (hostTurn (hostRd 0x00) ready0).schedule = .host :: []
      ∧ (hostTurn (hostRd 0x00) ready0).program = .read .w32 0x00 :: [] := by decide

/-- A legal state with an error in STATUS, and one with none. -/
theorem witness_StatusWordFieldsAndLegalValues :
    Legal (raiseError .invalidState ready0) ∧ (raiseError .invalidState ready0).status.word.getLsbD 3 = true
      ∧ Legal ready0 :=
  ⟨legal_of _ rfl rfl rfl rfl ⟨by decide, by decide, by decide, by decide⟩, by decide, legal_ready0⟩

theorem witness_CommandWriteIsAcceptedWhenIdle :
    ready0.status.busy = false ∧ State.reset.status.busy = false ∧ (pendingWord 0).status.busy = true := by decide

theorem witness_WritesWhileBusyAreDropped :
    (pendingWord 0x00000003).status.busy = true ∧ 0x20 = 0x20 + 4 * (0 : Fin 8).val ∧ 0x3C = 0x20 + 4 * (7 : Fin 8).val
      ∧ (0x40 ≤ 0x40 ∧ 0x40 ≤ 0xFC) ∧ (0x40 ≤ 0xFC ∧ 0xFC ≤ 0xFC) := by decide

theorem witness_ReservedBitsReadZeroAndIgnoreWrites :
    ready0.status.busy = false ∧ (0x60 ≤ 0x60 ∧ 0x60 ≤ 0xFC) ∧ (0x60 ≤ 0xFC ∧ 0xFC ≤ 0xFC) ∧ 0x10 ≤ 0x10
      ∧ (0x40 ≤ 0x40 ∧ 0x40 ≤ 0x5C) ∧ (0x40 ≤ 0x5C ∧ 0x5C ≤ 0x5C) := by decide

theorem witness_ReadsChangeNoRegister :
    ready0.status.busy = false ∧ (pendingWord 0x00000003).status.busy = true ∧ 0x40 = 0x40 + 4 * (0 : Fin 8).val
      ∧ 0x5C = 0x40 + 4 * (7 : Fin 8).val := by decide

theorem witness_WindowLanesGiveThePayload : ready0.status.busy = false := rfl

/-- A narrow access, a misaligned one, the first offset past the window, and the last defined one, read and written. -/
theorem witness_UndefinedAccessIsRefused :
    [hostTurn (.read .w8 0x00) ready0, hostTurn (.write .w32 0x02 0) ready0, hostTurn (.read .w32 0x100) ready0,
      hostTurn (.read .w32 0xFC) ready0, hostTurn (.write .w32 0xFC 1) ready0].all
      (fun s => decide (s.status.errcode.toNat ≤ 2) && decide (s.schedule = [.host]) && !s.resetLine) = true
      ∧ Width.w8 ≠ .w32 ∧ 0x02 % 4 ≠ 0 ∧ 0x100 ≤ 0x100 ∧ 0xFC % 4 = 0 ∧ 0xFC < 0x100
      ∧ (hostTurn (.read .w32 0xFC) ready0).program = .read .w32 0xFC :: []
      ∧ (hostTurn (.write .w32 0xFC 1) ready0).program = .write .w32 0xFC 1 :: [] := by decide

theorem witness_SecondHostIsRefused :
    (hostTurn .foreignAccess ready0).status.errcode.toNat ≤ 2 ∧ (hostTurn .foreignAccess ready0).schedule = .host :: []
      ∧ (hostTurn .foreignAccess ready0).program = .foreignAccess :: [] := by decide

/-- READY is 1 and DONE is 0, so both clauses are met; the Host moves when it is scheduled, and when nobody is. -/
theorem witness_PollGoesOnWhenItsBitIsSet :
    (hostTurn (.readUntil 0) ready0).status.errcode.toNat ≤ 2 ∧ (hostTurn (.readUntil 0) ready0).resetLine = false
      ∧ nextAgent (hostTurn (.readUntil 0) ready0) = .host ∧ nextAgent (setProgram [.readUntil 0] ready0) = .host
      ∧ (hostTurn (.readUntil 0) ready0).program = .readUntil 0 :: []
      ∧ (hostTurn (.readUntil 0) ready0).status.word.getLsbD (0 : Fin 32).val = true
      ∧ (hostTurn (.readUntil 2) ready0).status.word.getLsbD (2 : Fin 32).val = false := by decide

/-- With nobody scheduled, and with the Engine scheduled. -/
theorem witness_StepRunsTheDecodedCommand :
    [pendingWord 0x00001792, setSchedule [.engine, .host] (pendingWord 0x00001792)].all
      (fun s => decide (s.status.errcode.toNat ≤ 2) && !s.resetLine && s.status.busy && s.status.ready
        && decide (decode s.cmd = .ok (.apply 1 true 23))) = true
      ∧ (pendingWord 0x00001792).schedule = []
      ∧ (setSchedule [.engine, .host] (pendingWord 0x00001792)).schedule = .engine :: [.host] := by decide

theorem witness_BuilderFillsEveryEntry :
    (setSchedule [.builder] State.reset).status.errcode.toNat ≤ 2 ∧ (setSchedule [.builder] State.reset).resetLine = false
      ∧ (setSchedule [.builder] State.reset).status.ready = false
      ∧ (setSchedule [.builder] State.reset).schedule = .builder :: [] ∧ ready0.status.ready = true
      ∧ (setResetLine true State.reset).resetLine = true := by decide

theorem witness_CommandBeforeReadyWaits :
    State.reset.resetLine = false ∧ State.reset.status.ready = false ∧ State.reset.status.busy = false := by decide

/-- Assertion during a command, release of the asserted and of the released input, and a step while reset is asserted. -/
theorem witness_ResetTakesEveryRegister :
    [hostTurn .assertReset (pendingWord 3), hostTurn .releaseReset (setResetLine true ready0),
      hostTurn .releaseReset (pendingWord 3)].all
      (fun s => decide (s.status.errcode.toNat ≤ 2) && decide (nextAgent (holdReset s) = .host)) = true
      ∧ (hostTurn .assertReset (pendingWord 3)).program = .assertReset :: []
      ∧ (hostTurn .releaseReset (setResetLine true ready0)).program = .releaseReset :: []
      ∧ (hostTurn .releaseReset (setResetLine true ready0)).resetLine = true
      ∧ (hostTurn .releaseReset (pendingWord 3)).resetLine = false ∧ (pendingWord 3).status.busy = true
      ∧ step (setResetLine true ready0) = .next (setResetLine true State.reset) :=
  ⟨by decide, rfl, rfl, rfl, rfl, rfl, rfl⟩

theorem witness_EveryStepKeepsLegality :
    Legal (pendingWord 0x00000000) ∧ step (pendingWord 0x00000000) = .next (complete (pendingWord 0x00000000)) :=
  ⟨legal_pending 0, rfl⟩

theorem witness_LegalRunsNeverStop :
    Legal (pendingWord 0x00000000) ∧ Legal (setProgram [hostRd 0xFC, .assertReset, .releaseReset] ready0)
      ∧ (setProgram [hostRd 0xFC, .assertReset, .releaseReset] ready0).program.all
          (fun op => PlainOp op || decide (op = .assertReset) || decide (op = .releaseReset)) = true :=
  ⟨legal_pending 0, legal_of _ rfl rfl rfl rfl ⟨by decide, by decide, by decide, by decide⟩, by decide⟩

/-- A command accepted before READY, with a host program and a schedule of its own. -/
theorem witness_AcceptedCommandCompletes :
    Legal (setSchedule [.engine, .host] (setProgram (hostRdout ++ hostPoll) (acceptCommand 0x00001802 State.reset)))
      ∧ (setSchedule [.engine, .host] (setProgram (hostRdout ++ hostPoll) (acceptCommand 0x00001802 State.reset))).status.busy
          = true
      ∧ (hostRdout ++ hostPoll).all PlainOp = true :=
  ⟨legal_of _ rfl rfl rfl rfl ⟨by decide, by decide, by decide, by decide⟩, rfl, by decide⟩

/-- The Host would assert reset next, but the Engine has the turn. -/
def engineBeforeReset : State := setSchedule [.engine] (setProgram [.assertReset] (pendingWord 0))

/-- The Engine's turn is no reset event of the Host's, though one is next in the Host's program. -/
theorem engineBeforeReset_premises (op : HostOp) :
    ¬ HostTakes engineBeforeReset op ∧ engineBeforeReset.resetLine = false
      ∧ ∃ t, step engineBeforeReset = .next t :=
  ⟨by rintro ⟨⟨⟩, _⟩, rfl, _, rfl⟩

/-- The Host's turn, with a write that is dropped. -/
theorem witness_OperandsAreFrozenWhileBusy :
    engineBeforeReset.status.busy = true ∧ (hostTurn (hostWr 0x20 1) (pendingWord 3)).status.busy = true
      ∧ (hostTurn (hostWr 0x20 1) (pendingWord 3)).resetLine = false
      ∧ ¬ HostTakes (hostTurn (hostWr 0x20 1) (pendingWord 3)) .assertReset
      ∧ ¬ HostTakes (hostTurn (hostWr 0x20 1) (pendingWord 3)) .releaseReset
      ∧ ∃ t, step (hostTurn (hostWr 0x20 1) (pendingWord 3)) = .next t :=
  ⟨rfl, rfl, rfl, by rintro ⟨_, _, ⟨⟩⟩, by rintro ⟨_, _, ⟨⟩⟩, _, rfl⟩

theorem witness_ReadyAndTablesStay :
    engineBeforeReset.status.ready = true ∧ engineBeforeReset.resetLine = false
      ∧ ¬ HostTakes engineBeforeReset .assertReset ∧ ¬ HostTakes engineBeforeReset .releaseReset
      ∧ ∃ t, step engineBeforeReset = .next t :=
  ⟨rfl, rfl, (engineBeforeReset_premises _).1, (engineBeforeReset_premises _).1, _, rfl⟩

/-- A finished command with OVERRUN set; the Host reads STATUS. -/
theorem witness_StatusHoldsUntilCleared :
    (hostTurn (hostRd 0x04) (dropWrite (complete ready0))).resetLine = false
      ∧ (hostTurn (hostRd 0x04) (dropWrite (complete ready0))).status.busy = false
      ∧ (hostTurn (hostRd 0x04) (dropWrite (complete ready0))).status.overrun = true
      ∧ ¬ HostTakes (hostTurn (hostRd 0x04) (dropWrite (complete ready0))) .assertReset
      ∧ ¬ HostTakes (hostTurn (hostRd 0x04) (dropWrite (complete ready0))) .releaseReset
      ∧ (∀ off v, ¬ HostTakes (hostTurn (hostRd 0x04) (dropWrite (complete ready0))) (.write .w32 off v))
      ∧ ∃ t, step (hostTurn (hostRd 0x04) (dropWrite (complete ready0))) = .next t :=
  ⟨rfl, rfl, rfl, by rintro ⟨_, _, ⟨⟩⟩, by rintro ⟨_, _, ⟨⟩⟩, by rintro _ _ ⟨_, _, ⟨⟩⟩, _, rfl⟩

theorem witness_BusyOrDoneAfterAcceptedWrite :
    ready0.status.busy = false ∧ engineBeforeReset.resetLine = false ∧ engineBeforeReset.status.busy = true
      ∧ ¬ HostTakes engineBeforeReset .assertReset ∧ ¬ HostTakes engineBeforeReset .releaseReset
      ∧ ∃ t, step engineBeforeReset = .next t :=
  ⟨rfl, rfl, rfl, (engineBeforeReset_premises _).1, (engineBeforeReset_premises _).1, _, rfl⟩

theorem witness_UnbuiltTablesAreNotObservable : State.reset.status.ready = false := rfl

end Sys2Proof.Tests
end

/-! SUPPORT. Proofs about the block's state (10_state.md): first the rules for its operations, then what a step keeps
and what it cannot show, then what the commands and the single registers do. -/

namespace Sys2Proof.Machine

/-! ## Words and payloads -/

/-- A mask is put together again from its two bytes (R45). -/
theorem bytes_of_mask (v : Mask) :
    (v.extractLsb' 0 8).zeroExtend 16 ||| ((v.extractLsb' 8 8).zeroExtend 16 <<< 8) = v := by
  apply mask_ext
  intro j hj
  by_cases hlow : j < 8
  · simp [hlow, hj]
  · have hhigh : j - 8 < 8 := by omega
    have hsum : 8 + (j - 8) = j := by omega
    simp [hlow, hj, hhigh, hsum]

/-- words undoes ser (R45). -/
theorem words_ser (w : Words) : words (ser w) = w := by
  obtain ⟨w0, w1, w2, w3, w4, w5, w6, w7⟩ := w
  rw [words, Words.mk.injEq]
  exact ⟨bytes_of_mask w0, bytes_of_mask w1, bytes_of_mask w2, bytes_of_mask w3,
    bytes_of_mask w4, bytes_of_mask w5, bytes_of_mask w6, bytes_of_mask w7⟩

/-- The canonical state is the image under some element (R123, R126). -/
theorem words_canonPayload (t : Memory) (w : Words) : ∃ g, words (canonPayload t w) = act t g w := by
  obtain ⟨g, hg⟩ := canonPayload_mem t w
  exact ⟨g, by rw [hg, cand, words_ser]⟩

/-! ## Disjoint states -/

theorem scatter_and (k : Fin 8) (a b : Mask) : scatter k (a &&& b) = scatter k a &&& scatter k b := by
  apply mask_ext
  intro j hj
  rw [BitVec.getLsbD_and, scatter_getLsbD k _ j hj, scatter_getLsbD k a j hj, scatter_getLsbD k b j hj,
    BitVec.getLsbD_and]

theorem scatter_zero (k : Fin 8) : scatter k 0 = 0 := by
  apply mask_ext
  intro j hj
  rw [scatter_getLsbD k 0 j hj, show (0 : Mask) = 0#16 from rfl, BitVec.getLsbD_zero, BitVec.getLsbD_zero]

theorem valid_zero : Valid Words.zero := by
  intro a b _
  rw [Words.get_zero, Words.get_zero]
  rfl

/-- In a valid state any two different slots are disjoint, in either order. -/
theorem Valid.disjoint {w : Words} (hv : Valid w) {a b : Fin 8} (hne : a ≠ b) : w.get a &&& w.get b = 0#16 := by
  rcases Nat.lt_or_gt_of_ne (Fin.val_ne_of_ne hne) with h | h
  · exact hv a b h
  · rw [BitVec.and_comm]
    exact hv b a h

/-- The image of a valid state under built tables is valid (R109). -/
theorem valid_act {t : Memory} (ht : ∀ k m, t.read k m = scatter k m) (g : SymElem) {w : Words} (hv : Valid w) :
    Valid (act t g w) := by
  intro a b hab
  obtain ⟨i, rfl⟩ := destSlot_surjective g.f g.p a
  obtain ⟨j, rfl⟩ := destSlot_surjective g.f g.p b
  have hij : i ≠ j := by
    rintro rfl
    exact Nat.lt_irrefl _ hab
  rw [act_get_dest, act_get_dest, ht, ht, ← scatter_and, hv.disjoint hij]
  exact scatter_zero g.k

/-! ## What each command reads and writes -/

/-- What no command changes (R38). -/
theorem ExecOutcome.frame {s t : State} {i : Instr} (h : ExecOutcome s i t) :
    t.wIn = s.wIn ∧ t.maskIn = s.maskIn ∧ t.cmd = s.cmd ∧ t.pt = s.pt
      ∧ t.resetLine = s.resetLine ∧ t.program = s.program ∧ t.schedule = s.schedule ∧ t.readData = s.readData
      ∧ t.freeIndex = s.freeIndex ∧ t.params = s.params := by
  cases h <;> simp

/-- Every command completes, with or without an error, and leaves READY and OVERRUN (R168, R145). -/
theorem ExecOutcome.completed {s t : State} {i : Instr} (h : ExecOutcome s i t) :
    t.status.ready = s.status.ready ∧ t.status.overrun = s.status.overrun ∧ t.status.busy = false
      ∧ t.status.done = true := by
  cases h <;> simp

theorem ExecOutcome.maskOut_of_not_perm {s t : State} {i : Instr} (h : ExecOutcome s i t) (hi : ∀ k, i ≠ .perm k) :
    t.maskOut = s.maskOut := by
  cases h with
  | perm k => exact absurd rfl (hi k)
  | _ => rfl

theorem ExecOutcome.key_of_nop_or_perm {s t : State} {i : Instr} (h : ExecOutcome s i t)
    (hi : i = .nop ∨ ∃ k, i = .perm k) : t.wOut = s.wOut ∧ t.keyhdr = s.keyhdr := by
  obtain rfl | ⟨k, rfl⟩ := hi
  · cases h; exact ⟨rfl, rfl⟩
  · cases h; exact ⟨rfl, rfl⟩

/-- A command that newly sets ERR has taken an error path, which writes no result (R38, R145). -/
theorem ExecOutcome.results_of_error {s t : State} {i : Instr} (h : ExecOutcome s i t) (hs : s.status.err = false)
    (ht : t.status.err = true) : t.maskOut = s.maskOut ∧ t.wOut = s.wOut ∧ t.keyhdr = s.keyhdr := by
  cases h with
  | applyIllegal | applyInvalid | canonInvalid => exact ⟨rfl, rfl, rfl⟩
  | nop | perm | apply | canon => exact absurd (hs.symm.trans ht) Bool.false_ne_true

/-- Every outcome listed is the command's answer: the converse of `exec_outcome`. -/
theorem ExecOutcome.exec_eq {s t : State} {i : Instr} (h : ExecOutcome s i t) : exec i s = .next t := by
  cases h with
  | nop | perm => rfl
  | apply k f p g hg hv => simp only [exec, execApply, hg, if_pos hv]
  | applyIllegal k f p hp => simp only [exec, execApply, (elemOfFields_eq_none k f p).mpr hp]
  | applyInvalid k f p hp hv => simp only [exec, execApply, elemOfFields_of_lt k f p hp, if_neg hv]
  | canon hv => simp only [exec, execCanon, if_pos hv]
  | canonInvalid hv => simp only [exec, execCanon, if_neg hv]

/-- A command other than PERM does not read MASK_IN (R38). -/
theorem exec_setMaskIn {i : Instr} {s t : State} (m : Mask) (hi : ∀ k, i ≠ .perm k) (h : exec i s = .next t) :
    exec i (setMaskIn m s) = .next (setMaskIn m t) := by
  apply ExecOutcome.exec_eq
  cases exec_outcome i s t h with
  | nop => exact .nop
  | perm k => exact absurd rfl (hi k)
  | apply k f p g hg hv => exact .apply k f p g hg hv
  | applyIllegal k f p hp => exact .applyIllegal k f p hp
  | applyInvalid k f p hp hv => exact .applyInvalid k f p hp hv
  | canon hv => exact .canon hv
  | canonInvalid hv => exact .canonInvalid hv

/-- PERM does not read W_IN (R38, R89). -/
theorem exec_perm_setWIn (k : Fin 8) (w : Words) (s : State) :
    exec (.perm k) (setWIn w s) = .next (setWIn w (complete (setMaskOut (s.pt.read k s.maskIn) s))) := rfl

/-- An illegal word on the Engine's turn changes STATUS at most (R141, R145). -/
theorem engine_illegal_eq {s t : State} {e : DecodeError} (hd : decode s.cmd = .error e)
    (h : agentStep .engine s = .next t) : t = { s with status := t.status } := by
  cases agentStep_outcome .engine s t h with
  | command i t he hd' hx => rw [hd] at hd'; cases hd'
  | illegal | waiting => rfl

/-! ## The register window -/

/-- A register that is not reserved stands at one aligned offset only (R41). -/
theorem eq_regOffset_of_regAt {off : Nat} {r : Reg} (ha : off % 4 = 0) (h : regAt off = r) (hr : r ≠ .reserved) :
    off = regOffset r := by
  subst h
  revert hr
  unfold regAt
  repeat' split
  all_goals simp only [regOffset, Fin.ofNat, ne_eq, not_true_eq_false, false_implies, reduceCtorEq, not_false_eq_true,
    forall_const]
  all_goals omega

theorem capWord_eq : capWord = 0x00180801#32 := by decide

/-- The read of a register other than the results gives its word, whether a command is pending or not (R49). -/
theorem readData_busRead_of_not_result {off : Nat} {r : Reg} (hr : regAt off = r) (hres : r.isResult = false)
    (s : State) : (busRead off s).readData = readReg s r := by
  subst hr
  rw [busRead, hres, Bool.and_false]
  rfl

theorem readData_busRead_cap (s : State) : (busRead 0x00 s).readData = 0x00180801#32 := by
  rw [readData_busRead_of_not_result (r := .cap) rfl rfl, readReg, capWord_eq]

theorem readData_busRead_cmd (s : State) : (busRead 0x08 s).readData = s.cmd :=
  readData_busRead_of_not_result (r := .cmd) rfl rfl s

theorem busWrite_cmd_of_idle {s : State} (h : s.status.busy = false) (v : Word) :
    busWrite 0x08 v s = acceptCommand v s := by
  have hcmd : regAt 0x08 = .cmd := rfl
  simp only [busWrite, hcmd, h, Bool.false_eq_true, if_false]

theorem busWrite_cmd_of_busy {s : State} (h : s.status.busy = true) (v : Word) :
    busWrite 0x08 v s = dropWrite s := by
  have hcmd : regAt 0x08 = .cmd := rfl
  simp only [busWrite, hcmd, h, if_true]

/-- A write while a command is pending does not reach CMD or an operand (R143, R166). -/
theorem WriteOutcome.operands_of_busy {off : Nat} {v : Word} {s t : State} (h : WriteOutcome off v s t)
    (hb : s.status.busy = true) : t.cmd = s.cmd ∧ t.wIn = s.wIn ∧ t.maskIn = s.maskIn := by
  cases h with
  | ignored | status | dropped => exact ⟨rfl, rfl, rfl⟩
  | accepted _ hi | maskIn _ hi | wIn _ _ hi => exact absurd (hi.symm.trans hb) Bool.false_ne_true

/-- Only a write of CMD reaches DONE, ERR and ERRCODE (R30, R31). -/
theorem WriteOutcome.completion_of_not_cmd {off : Nat} {v : Word} {s t : State} (h : WriteOutcome off v s t)
    (hne : regAt off ≠ .cmd) :
    t.status.done = s.status.done ∧ t.status.err = s.status.err ∧ t.status.errcode = s.status.errcode := by
  cases h with
  | accepted hc _ => exact absurd hc hne
  | _ => simp

/-- Only a write of STATUS with bit 8 = 1 clears OVERRUN (R32). -/
theorem WriteOutcome.overrun_stays {off : Nat} {v : Word} {s t : State} (h : WriteOutcome off v s t)
    (ho : s.status.overrun = true) (hne : regAt off = .status → v.getLsbD 8 = false) : t.status.overrun = true := by
  cases h with
  | status hs => rw [setStatus_status, Status.hostWrite_overrun, ho, hne hs]; rfl
  | dropped => rfl
  | _ => exact ho

/-! ## The bits of STATUS -/

theorem flagBit_getLsbD (b : Bool) {n : Nat} (hn : n < 32) (i : Nat) :
    (flagBit b n).getLsbD i = (b && decide (i = n)) := by
  cases b with
  | false => simp [flagBit]
  | true =>
    rw [flagBit, if_pos rfl, BitVec.getLsbD_shiftLeft, BitVec.getLsbD_one, Bool.true_and, Bool.eq_iff_iff]
    simp
    omega

/-- Every bit of the STATUS word (R27). -/
theorem Status.word_getLsbD (st : Status) (i : Nat) :
    st.word.getLsbD i = ((st.ready && decide (i = 0)) || (st.busy && decide (i = 1)) || (st.done && decide (i = 2))
      || (st.err && decide (i = 3)) || (!decide (i < 4) && st.errcode.getLsbD (i - 4))
      || (st.overrun && decide (i = 8))) := by
  have hcode : (st.errcode.zeroExtend 32 <<< 4).getLsbD i = (!decide (i < 4) && st.errcode.getLsbD (i - 4)) := by
    by_cases hi : i < 8
    · have h32 : i < 32 := by omega
      simp [h32]
    · rw [BitVec.getLsbD_shiftLeft, BitVec.getLsbD_setWidth, BitVec.getLsbD_of_ge st.errcode (i - 4) (by omega)]
      simp only [Bool.and_false]
  simp only [Status.word, BitVec.getLsbD_or, hcode, flagBit_getLsbD _ (show 0 < 32 by decide),
    flagBit_getLsbD _ (show 1 < 32 by decide), flagBit_getLsbD _ (show 2 < 32 by decide),
    flagBit_getLsbD _ (show 3 < 32 by decide), flagBit_getLsbD _ (show 8 < 32 by decide)]

theorem Status.word_errcode (st : Status) : st.word.extractLsb' 4 4 = st.errcode := by
  apply BitVec.eq_of_getLsbD_eq
  intro i hi
  rw [BitVec.getLsbD_extractLsb', Status.word_getLsbD]
  have hne (j : Nat) (hj : j < 4 ∨ j = 8) : ¬ 4 + i = j := by omega
  simp [hi, hne]

section StatusBits

variable (st : Status)

theorem Status.word_ready : st.word.getLsbD 0 = st.ready := by rw [word_getLsbD]; simp
theorem Status.word_busy : st.word.getLsbD 1 = st.busy := by rw [word_getLsbD]; simp
theorem Status.word_done : st.word.getLsbD 2 = st.done := by rw [word_getLsbD]; simp
theorem Status.word_err : st.word.getLsbD 3 = st.err := by rw [word_getLsbD]; simp
theorem Status.word_overrun : st.word.getLsbD 8 = st.overrun := by rw [word_getLsbD]; simp

end StatusBits

/-- STATUS has no bit above bit 8 (R27). -/
theorem Status.word_lt (st : Status) : st.word.toNat < 2 ^ 9 := by
  apply Nat.lt_pow_two_of_testBit
  intro i hi
  have hcode : st.errcode.getLsbD (i - 4) = false := BitVec.getLsbD_of_ge st.errcode (i - 4) (by omega)
  have hne (j : Nat) (hj : j ≤ 8) : ¬ i = j := by omega
  rw [BitVec.testBit_toNat, Status.word_getLsbD]
  simp [hcode, hne]

/-- A host write of STATUS, spelled out by field (R32). -/
theorem Status.hostWrite_eq (st : Status) (v : Word) :
    st.hostWrite v = { st with overrun := st.overrun && !v.getLsbD 8 } := by
  rw [Status.hostWrite]
  cases v.getLsbD 8 with
  | true => simp
  | false => simp

/-! ## Agents with a step -/

theorem engineEnabled_iff (s : State) :
    engineEnabled s = true ↔ s.status.busy = true ∧ s.status.ready = true := by
  rw [engineEnabled, Bool.and_eq_true]

theorem builderEnabled_iff (s : State) :
    builderEnabled s = true ↔ s.status.ready = false ∧ s.resetLine = false := by
  rw [builderEnabled, Bool.and_eq_true, Bool.not_eq_true', Bool.not_eq_true']

/-- An ERRCODE that is never produced is a fault, whoever has the turn (U14). -/
theorem step_of_errcode_gt {s : State} (he : ¬ s.status.errcode.toNat ≤ 2) : step s = .fault .errcodeNeverProduced := by
  rw [step, if_pos]
  exact decide_eq_true (Nat.lt_of_not_le he)

/-- A defined read on the host's turn, reset asserted or not, goes through. -/
theorem step_host_read {s : State} {rest : List Agent} {ops : List HostOp} {w : Width} {off : Nat}
    (he : s.status.errcode.toNat ≤ 2) (hs : s.schedule = .host :: rest) (hp : s.program = .read w off :: ops)
    (hd : accessDefined w off = true) :
    step s = .next (setProgram ops (busRead off (setSchedule rest (holdReset s)))) := by
  rw [step_scheduled s .host rest he hs]
  simp only [agentStep, hostStep, setSchedule_program, holdReset_program, hp, if_pos hd]

/-! ## Legal values of STATUS -/

theorem StatusLegal.reset : StatusLegal Status.reset := ⟨by decide, by decide, by decide, by decide⟩

theorem StatusLegal.accept (st : Status) : StatusLegal st.accept := by
  constructor <;> simp

/-- A completion may follow anything: it clears BUSY and sets DONE (R168). -/
theorem StatusLegal.complete {st : Status} (h : StatusLegal st) : StatusLegal st.complete where
  busy_done := by simp
  err_done := by simp
  errcode_err := h.errcode_err
  errcode_le := h.errcode_le

theorem StatusLegal.completeError (st : Status) (e : CommandError) : StatusLegal (st.completeError e) where
  busy_done := by simp
  err_done := by simp
  errcode_err := by cases e <;> simp [CommandError.code]
  errcode_le := by cases e <;> exact Nat.le_of_ble_eq_true rfl

/-- READY and OVERRUN do not matter to the legal values (R27). -/
theorem StatusLegal.congr {st st' : Status} (h : StatusLegal st) (hb : st'.busy = st.busy) (hd : st'.done = st.done)
    (he : st'.err = st.err) (hc : st'.errcode = st.errcode) : StatusLegal st' where
  busy_done := by rw [hb, hd]; exact h.busy_done
  err_done := by rw [he, hd]; exact h.err_done
  errcode_err := by rw [hc, he]; exact h.errcode_err
  errcode_le := by rw [hc]; exact h.errcode_le

/-- A host write leaves STATUS legal (R32, R33). -/
theorem WriteOutcome.statusLegal {off : Nat} {v : Word} {s t : State} (hw : WriteOutcome off v s t)
    (h : StatusLegal s.status) : StatusLegal t.status := by
  cases hw with
  | ignored | maskIn | wIn => exact h
  | status => exact h.congr (by simp) (by simp) (by simp) (by simp)
  | accepted => exact .accept s.status
  | dropped => exact h.congr rfl rfl rfl rfl

/-! ## Legal states -/

/-- Whatever a state was, it is legal with every register at its reset value and the reset input at either level. -/
theorem legal_setResetLine_resetRegisters (b : Bool) (s : State) : Legal (setResetLine b (resetRegisters s)) where
  status := .reset
  tables := fun h => absurd h Bool.false_ne_true
  memory := rfl
  held := fun _ => rfl
  keyhdr := .inl rfl
  result := valid_zero
  noKey := fun _ => rfl

/-- Settles O52: after reset the registers are those that reset leaves. -/
theorem resetStateIsLegal : Obligations.ResetStateIsLegal :=
  legal_setResetLine_resetRegisters false State.reset

theorem Legal.holdReset_eq {s : State} (h : Legal s) : holdReset s = s := by
  cases hr : s.resetLine with
  | false => exact holdReset_released s hr
  | true => rw [holdReset_asserted s hr, h.held hr]

/-- Tables that are built show that reset is released (R160). -/
theorem Legal.released_of_ready {s : State} (h : Legal s) (hready : s.status.ready = true) : s.resetLine = false := by
  cases hr : s.resetLine with
  | false => rfl
  | true =>
    rw [← h.held hr] at hready
    cases hready

/-! ### What keeps a state legal -/

/-- What the agents still have to do and what the host has read do not matter to legality (entries 1, 2, 4 and 12). -/
theorem Legal.of_registers_kept {s : State} (h : Legal s) (ops : List HostOp) (l : List Agent) (v : Word) (n : Nat) :
    Legal { s with program := ops, schedule := l, readData := v, freeIndex := n } where
  status := h.status
  tables := h.tables
  memory := h.memory
  held := fun hr =>
    congrArg (fun u : State => { u with program := ops, schedule := l, readData := v, freeIndex := n }) (h.held hr)
  keyhdr := h.keyhdr
  result := h.result
  noKey := h.noKey

theorem Legal.setProgram {s : State} (h : Legal s) (ops : List HostOp) : Legal (setProgram ops s) :=
  h.of_registers_kept ops s.schedule s.readData s.freeIndex

theorem Legal.setSchedule {s : State} (h : Legal s) (l : List Agent) : Legal (setSchedule l s) :=
  h.of_registers_kept s.program l s.readData s.freeIndex

theorem Legal.busRead {s : State} (h : Legal s) (off : Nat) : Legal (busRead off s) := by
  rw [busRead_eq]
  exact h.of_registers_kept s.program s.schedule _ _

/-- With reset released, an operation that leaves the tables and the key alone keeps a state legal when it keeps STATUS
legal. -/
theorem Legal.of_key_unchanged {s t : State} (h : Legal s) (hr : t.resetLine = false) (hs : StatusLegal t.status)
    (hready : t.status.ready = s.status.ready) (hpt : t.pt = s.pt) (hk : t.keyhdr = s.keyhdr) (hw : t.wOut = s.wOut)
    (hp : t.params = s.params) : Legal t where
  status := hs
  tables := by simpa only [TablesHold, hready, hpt] using h.tables
  memory := by rw [hpt]; exact h.memory
  held := fun ha => absurd ha (by simp [hr])
  keyhdr := by simpa only [KeyHeaderLegal, hk, hp] using h.keyhdr
  result := by rw [hw]; exact h.result
  noKey := by rw [hk, hw]; exact h.noKey

theorem Legal.complete {s : State} (h : Legal s) (hr : s.resetLine = false) : Legal (complete s) :=
  h.of_key_unchanged hr h.status.complete rfl rfl rfl rfl rfl

theorem Legal.raiseError {s : State} (h : Legal s) (hr : s.resetLine = false) (e : CommandError) :
    Legal (raiseError e s) :=
  h.of_key_unchanged hr (.completeError s.status e) rfl rfl rfl rfl rfl

theorem Legal.setMaskOut {s : State} (h : Legal s) (hr : s.resetLine = false) (v : Mask) : Legal (setMaskOut v s) :=
  h.of_key_unchanged hr h.status rfl rfl rfl rfl rfl

theorem Legal.busWrite {s : State} (h : Legal s) (hr : s.resetLine = false) (off : Nat) (v : Word) :
    Legal (busWrite off v s) :=
  h.of_key_unchanged (by simpa using hr) ((busWrite_outcome off v s).statusLegal h.status) (by simp) (by simp) (by simp)
    (by simp) (by simp)

/-- A new key has a header other than 0 and a valid state (R25, R107). -/
theorem Legal.writeResult {s : State} (h : Legal s) (hr : s.resetLine = false) {w : Words} {hdr : BitVec 16}
    (hv : Valid w) (hne : hdr ≠ 0) (hh : hdr = rawKeyHeader ∨ hdr = canonKeyHeader s.params) :
    Legal (writeResult w hdr s) where
  status := h.status
  tables := h.tables
  memory := h.memory
  held := fun ha => absurd ha (by simp [hr])
  keyhdr := .inr hh
  result := hv
  noKey := fun h0 => absurd h0 hne

theorem rawKeyHeader_ne_zero : rawKeyHeader ≠ 0 := by decide

theorem canonKeyHeader_ne_zero (p : Config.Params) : canonKeyHeader p ≠ 0 := by
  obtain ⟨flag⟩ := p
  cases flag <;> decide

theorem Legal.builderStep {s : State} (h : Legal s) (hr : s.resetLine = false) : Legal (builderStep s) where
  status := h.status.congr rfl rfl rfl rfl
  tables := fun _ => read_built
  memory := wf_built
  held := fun ha => absurd ha (by simp [hr])
  keyhdr := h.keyhdr
  result := h.result
  noKey := h.noKey

/-! ### What each agent does to a legal state -/

/-- A command that runs with its tables built keeps a legal state legal. -/
theorem ExecOutcome.legal {s t : State} {i : Instr} (hx : ExecOutcome s i t) (h : Legal s)
    (hready : s.status.ready = true) : Legal t := by
  have hr := h.released_of_ready hready
  cases hx with
  | nop => exact h.complete hr
  | perm k => exact (h.setMaskOut hr _).complete hr
  | apply k f p g hg hv =>
    have hact := valid_act (h.tables hready) g hv
    exact (h.writeResult hr hact rawKeyHeader_ne_zero (.inl rfl)).complete hr
  | canon hv =>
    obtain ⟨g, hg⟩ := words_canonPayload s.pt s.wIn
    have hact : Valid (words (canonPayload s.pt s.wIn)) := by
      rw [hg]
      exact valid_act (h.tables hready) g hv
    exact (h.writeResult hr hact (canonKeyHeader_ne_zero s.params) (.inr rfl)).complete hr
  | applyIllegal | applyInvalid | canonInvalid => exact h.raiseError hr _

theorem HostOutcome.legal {s t : State} (ho : HostOutcome s t) (h : Legal s) : Legal t := by
  cases ho with
  | nothing => exact h
  | read w off rest => exact (h.busRead off).setProgram rest
  | write w off v rest hp hd hr => exact (h.busWrite hr off v).setProgram rest
  | writeInReset w off v rest => exact h.setProgram rest
  | pollDone bit rest => exact (h.busRead statusOffset).setProgram rest
  | pollAgain => exact h.busRead statusOffset
  | assertReset rest => exact (legal_setResetLine_resetRegisters true s).setProgram rest
  | releaseReset rest =>
    cases hr : s.resetLine with
    | true =>
      rw [holdReset_asserted s hr]
      exact (legal_setResetLine_resetRegisters false s).setProgram rest
    | false =>
      rw [holdReset_released s hr]
      exact (h.of_key_unchanged (t := setResetLine false s) rfl h.status rfl rfl rfl rfl rfl).setProgram rest

theorem AgentOutcome.legal {s t : State} {a : Agent} (ho : AgentOutcome s a t) (h : Legal s) : Legal t := by
  cases ho with
  | host t hh => exact hh.legal h
  | command i t he hd hx => exact hx.legal h ((engineEnabled_iff s).mp he).2
  | illegal e he hd => exact h.raiseError (h.released_of_ready ((engineEnabled_iff s).mp he).2) .illegalCmd
  | built hb => exact h.builderStep ((builderEnabled_iff s).mp hb).2
  | waiting | noBuild => exact h

/-- Settles O53: each operation an agent's turn can perform keeps a legal state legal. -/
theorem everyStepKeepsLegality : Obligations.EveryStepKeepsLegality := by
  intro s t h hstep
  obtain ⟨_, ho⟩ := step_outcome s t hstep
  rw [h.holdReset_eq] at ho
  exact ho.legal (h.setSchedule _)

/-! ## A step with reset released that does not touch reset -/

/-- What such a step can do to the registers; `setSchedule` takes the turn off the schedule. -/
inductive RunningStep (s : State) : State → Prop where
  | kept (t : State) (h : SameRegisters t s) : RunningStep s t
  | write (off : Nat) (v : Word) (rest : List HostOp) (u : State) (hh : HostTakes s (.write .w32 off v))
      (ha : off % 4 = 0) (hw : WriteOutcome off v (setSchedule s.schedule.tail s) u) :
      RunningStep s (setProgram rest u)
  | command (i : Instr) (t : State) (hb : s.status.busy = true) (hd : decode s.cmd = .ok i)
      (hx : ExecOutcome (setSchedule s.schedule.tail s) i t) : RunningStep s t
  | illegal (e : DecodeError) (hb : s.status.busy = true) (hd : decode s.cmd = .error e) :
      RunningStep s (raiseError .illegalCmd (setSchedule s.schedule.tail s))
  | built (hr : s.status.ready = false) : RunningStep s (builderStep (setSchedule s.schedule.tail s))

theorem sameRegisters_setSchedule (l : List Agent) (s : State) : SameRegisters (setSchedule l s) s :=
  ⟨⟨rfl, rfl, rfl, rfl, rfl, rfl, rfl⟩, rfl⟩

theorem sameRegisters_busRead (off : Nat) (l : List Agent) (s : State) :
    SameRegisters (busRead off (setSchedule l s)) s := by
  simp [SameRegisters, SameWindow]

theorem SameRegisters.setProgram {s t : State} (h : SameRegisters t s) (ops : List HostOp) :
    SameRegisters (setProgram ops t) s := h

/-- Every step with reset released, but the Host's that touches reset, is one of `RunningStep`. -/
theorem runningStep_of_step {s t : State} (hr : s.resetLine = false) (hassert : ¬ HostTakes s .assertReset)
    (hrelease : ¬ HostTakes s .releaseReset) (h : step s = .next t) : RunningStep s t := by
  obtain ⟨_, ho⟩ := step_outcome s t h
  rw [holdReset_released s hr] at ho
  generalize hagent : nextAgent s = a at ho
  cases ho with
  | host t hh =>
    cases hh with
    | nothing => exact .kept _ (sameRegisters_setSchedule _ s)
    | read w off rest => exact .kept _ ((sameRegisters_busRead off _ s).setProgram rest)
    | write w off v rest hp hd =>
      obtain ⟨rfl, ha, _⟩ := (accessDefined_iff w off).mp hd
      exact .write off v rest _ ⟨hagent, rest, hp⟩ ha (busWrite_outcome off v _)
    | writeInReset w off v rest hp hd ha => exact absurd (hr.symm.trans ha) Bool.false_ne_true
    | pollDone bit rest => exact .kept _ ((sameRegisters_busRead statusOffset _ s).setProgram rest)
    | pollAgain => exact .kept _ (sameRegisters_busRead statusOffset _ s)
    | assertReset rest hp => exact absurd ⟨hagent, rest, hp⟩ hassert
    | releaseReset rest hp => exact absurd ⟨hagent, rest, hp⟩ hrelease
  | command i t he hd hx => exact .command i t ((engineEnabled_iff _).mp he).1 hd hx
  | illegal e he hd => exact .illegal e ((engineEnabled_iff _).mp he).1 hd
  | built hb => exact .built ((builderEnabled_iff _).mp hb).1
  | waiting | noBuild => exact .kept _ (sameRegisters_setSchedule _ s)

/-- Settles O56: only a host write could reach an operand, and it is dropped. -/
theorem operandsAreFrozenWhileBusy : Obligations.OperandsAreFrozenWhileBusy := by
  intro s t hbusy hr hassert hrelease h
  cases runningStep_of_step hr hassert hrelease h with
  | kept t hsame =>
    obtain ⟨⟨_, hcmd, hmaskIn, _, _, hwIn, _⟩, _⟩ := hsame
    exact ⟨hcmd, hwIn, hmaskIn⟩
  | write off v rest u hh ha hw => exact hw.operands_of_busy hbusy
  | command i t hb hd hx =>
    obtain ⟨hwIn, hmaskIn, hcmd, _⟩ := hx.frame
    exact ⟨hcmd, hwIn, hmaskIn⟩
  | illegal | built => exact ⟨rfl, rfl, rfl⟩

/-! ### What holds until it is cleared -/

theorem RunningStep.completion_stays {s t : State} (h : RunningStep s t) (hidle : s.status.busy = false)
    (hno : ∀ v, ¬ HostTakes s (.write .w32 0x08 v)) :
    t.status.done = s.status.done ∧ t.status.err = s.status.err ∧ t.status.errcode = s.status.errcode := by
  cases h with
  | kept t hsame =>
    obtain ⟨⟨hstatus, _⟩, _⟩ := hsame
    rw [hstatus]
    exact ⟨rfl, rfl, rfl⟩
  | write off v rest u hh ha hw =>
    refine hw.completion_of_not_cmd fun hc => hno v ?_
    obtain rfl := eq_regOffset_of_regAt ha hc nofun
    exact hh
  | command i t hb | illegal _ hb => exact absurd (hidle.symm.trans hb) Bool.false_ne_true
  | built => exact ⟨rfl, rfl, rfl⟩

theorem RunningStep.results_stay {s t : State} (h : RunningStep s t) (hidle : s.status.busy = false) :
    t.maskOut = s.maskOut ∧ t.keyhdr = s.keyhdr ∧ t.wOut = s.wOut := by
  cases h with
  | kept t hsame =>
    obtain ⟨⟨_, _, _, hmaskOut, hkeyhdr, _, hwOut⟩, _⟩ := hsame
    exact ⟨hmaskOut, hkeyhdr, hwOut⟩
  | write off v rest u hh ha hw =>
    obtain ⟨hmaskOut, hkeyhdr, hwOut, _⟩ := WriteOutcome.frame off v _ u hw
    exact ⟨hmaskOut, hkeyhdr, hwOut⟩
  | command i t hb | illegal _ hb => exact absurd (hidle.symm.trans hb) Bool.false_ne_true
  | built => exact ⟨rfl, rfl, rfl⟩

theorem RunningStep.overrun_stays {s t : State} (h : RunningStep s t) (ho : s.status.overrun = true)
    (hno : ∀ v, v.getLsbD 8 = true → ¬ HostTakes s (.write .w32 0x04 v)) : t.status.overrun = true := by
  cases h with
  | kept t hsame =>
    obtain ⟨⟨hstatus, _⟩, _⟩ := hsame
    rw [hstatus]
    exact ho
  | write off v rest u hh ha hw =>
    refine hw.overrun_stays ho fun hs => Bool.eq_false_iff.mpr fun hv => hno v hv ?_
    obtain rfl := eq_regOffset_of_regAt ha hs nofun
    exact hh
  | command i t hb hd hx =>
    obtain ⟨_, hoverrun, _⟩ := hx.completed
    exact hoverrun.trans ho
  | illegal | built => exact ho

/-- Settles O58, case by case over what a step that does not touch reset can do. -/
theorem statusHoldsUntilCleared : Obligations.StatusHoldsUntilCleared := by
  intro s t hr hassert hrelease h
  have hrun := runningStep_of_step hr hassert hrelease h
  exact ⟨hrun.completion_stays, hrun.results_stay, hrun.overrun_stays⟩

/-! ## Tables that are not built yet -/

/-- The same state with other contents of the table store. -/
def withTables (p : Memory) (s : State) : State := { s with pt := p }

/-- Two outcomes that differ in the table store alone, and not even there once READY is 1. -/
inductive AlikeButTables : Result → Result → Prop where
  | next (t : State) (q : Memory) (h : t.status.ready = true → q = t.pt) :
      AlikeButTables (.next t) (.next (withTables q t))
  | fault (r : Fault) : AlikeButTables (.fault r) (.fault r)
  | refused (r : Refusal) : AlikeButTables (.refused r) (.refused r)

theorem AlikeButTables.refl (r : Result) : AlikeButTables r r := by
  cases r with
  | next t => exact .next t t.pt fun _ => rfl
  | fault f => exact .fault f
  | refused f => exact .refused f

/-- The three outcomes written out. -/
theorem AlikeButTables.cases_next_fault_refused {r r' : Result} (h : AlikeButTables r r') :
    (∃ t q, r = .next t ∧ r' = .next (withTables q t) ∧ (t.status.ready = true → q = t.pt))
      ∨ (∃ f, r = .fault f ∧ r' = .fault f) ∨ (∃ f, r = .refused f ∧ r' = .refused f) := by
  cases h with
  | next t q hq => exact .inl ⟨t, q, rfl, rfl, hq⟩
  | fault f => exact .inr (.inl ⟨f, rfl, rfl⟩)
  | refused f => exact .inr (.inr ⟨f, rfl, rfl⟩)

theorem AlikeButTables.of_unready {t : State} (p : Memory) (h : t.status.ready = false) :
    AlikeButTables (.next t) (.next (withTables p t)) :=
  .next t p fun hr => absurd (h.symm.trans hr) Bool.false_ne_true

section WithTables

variable (p : Memory) (s : State)

@[simp] theorem withTables_status : (withTables p s).status = s.status := rfl
@[simp] theorem withTables_resetLine : (withTables p s).resetLine = s.resetLine := rfl
@[simp] theorem withTables_program : (withTables p s).program = s.program := rfl

theorem readReg_withTables (r : Reg) : readReg (withTables p s) r = readReg s r := by
  cases r <;> rfl

theorem busRead_withTables (off : Nat) : busRead off (withTables p s) = withTables p (busRead off s) := by
  simp only [busRead, readReg_withTables, withTables_status]
  split <;> rfl

theorem busWrite_withTables (off : Nat) (v : Word) :
    busWrite off v (withTables p s) = withTables p (busWrite off v s) := by
  unfold busWrite
  cases regAt off with
  | cmd | maskIn | wIn j =>
    simp only [withTables_status, apply_ite (withTables p)]
    rfl
  | _ => rfl

end WithTables

/-- The host never sees the table store (R36), and no access of its own makes READY 1. -/
theorem hostStep_withTables (p : Memory) {s : State} (hr : s.status.ready = false) :
    AlikeButTables (hostStep s) (hostStep (withTables p s)) := by
  cases hp : s.program with
  | nil =>
    simp only [hostStep, withTables_program, hp]
    exact .of_unready p hr
  | cons op rest =>
    cases op with
    | read w off =>
      simp only [hostStep, withTables_program, hp, busRead_withTables]
      split
      · exact .of_unready p (by simpa using hr)
      · exact .refused _
    | write w off v =>
      simp only [hostStep, withTables_program, withTables_resetLine, hp, busWrite_withTables]
      split
      · split
        · exact .of_unready p hr
        · exact .of_unready p (by simpa using hr)
      · exact .refused _
    | readUntil bit =>
      simp only [hostStep, withTables_program, withTables_status, hp, busRead_withTables]
      split <;> exact .of_unready p (by simpa using hr)
    | assertReset =>
      simp only [hostStep, withTables_program, hp]
      exact .refl _
    | releaseReset =>
      simp only [hostStep, withTables_program, hp]
      cases hl : s.resetLine with
      | true =>
        rw [holdReset_asserted s hl, holdReset_asserted (withTables p s) hl]
        exact .refl _
      | false =>
        rw [holdReset_released s hl, holdReset_released (withTables p s) hl]
        exact .of_unready p hr
    | foreignAccess =>
      simp only [hostStep, withTables_program, hp]
      exact .refused _

/-- While READY is 0 the Engine, which alone reads the store, has no step, and the Builder overwrites the whole store. -/
theorem agentStep_withTables (a : Agent) (p : Memory) {s : State} (hr : s.status.ready = false) :
    AlikeButTables (agentStep a s) (agentStep a (withTables p s)) := by
  cases a with
  | host => exact hostStep_withTables p hr
  | engine =>
    simp only [agentStep, engineEnabled, withTables_status, hr, Bool.and_false, Bool.false_eq_true, if_false]
    exact .of_unready p hr
  | builder =>
    simp only [agentStep, builderEnabled, withTables_status, withTables_resetLine, hr]
    cases s.resetLine with
    | false => exact .refl (.next (builderStep s))
    | true => exact .of_unready p hr

theorem step_withTables (p : Memory) {s : State} (hr : s.status.ready = false) :
    AlikeButTables (step s) (step (withTables p s)) := by
  by_cases he : s.status.errcode.toNat ≤ 2
  · rw [step_eq s he, step_eq (withTables p s) he]
    cases hl : s.resetLine with
    | true =>
      rw [holdReset_asserted s hl, holdReset_asserted (withTables p s) hl]
      exact .refl _
    | false =>
      rw [holdReset_released s hl, holdReset_released (withTables p s) hl]
      exact agentStep_withTables (nextAgent s) p (s := setSchedule s.schedule.tail s) hr
  · rw [step_of_errcode_gt he, step_of_errcode_gt (s := withTables p s) he]
    exact .fault _

/-- Settles O60: the steps differ in the store alone. -/
theorem unbuiltTablesAreNotObservable : Obligations.UnbuiltTablesAreNotObservable := by
  intro s p hr
  exact (step_withTables p hr).cases_next_fault_refused

/-! ## Commands and registers -/

/-- Settles O20, from what a command's outcomes have in common and what each command reads. -/
theorem commandsWriteOnlyTheirRegisters : Obligations.CommandsWriteOnlyTheirRegisters := by
  refine ⟨?_, ?_, ?_, ?_⟩
  · intro i s t h
    have hx := exec_outcome i s t h
    obtain ⟨hwIn, hmaskIn, hcmd, hpt, hreset, hprogram, hschedule, hread, hfree, hparams⟩ := hx.frame
    obtain ⟨hready, hoverrun, hbusy, hdone⟩ := hx.completed
    exact ⟨hwIn, hmaskIn, hcmd, fun k m => by rw [hpt], hreset, hprogram, hschedule, hread, hfree, hparams, hready,
      hoverrun, hbusy, hdone, hx.maskOut_of_not_perm, hx.key_of_nop_or_perm, hx.results_of_error⟩
  · intro s w m k t u
    constructor
    · intro p ht hu
      cases ht
      cases hu
      rfl
    · intro ht hu
      cases ht
      cases (exec_perm_setWIn k w s).symm.trans hu
      rfl
  · intro i s m t u hi ht hu
    cases (exec_setMaskIn m hi ht).symm.trans hu
    rfl
  · intro s t e hd h
    exact engine_illegal_eq hd h

/-- Settles O38: CAP reads as a constant and its writes fall to the case that changes nothing. -/
theorem capIsConstant : Obligations.CapIsConstant := by
  intro s v
  refine ⟨readData_busRead_cap s, rfl, by decide, by decide, by decide, by decide, ?_⟩
  intro rest ops he hs hp
  exact ⟨_, step_host_read he hs hp (accessDefined_regOffset .cap), readData_busRead_cap _⟩

/-- A command word that has been accepted before the tables are built (R163). -/
theorem legal_acceptCommand_reset (v : Word) : Legal (acceptCommand v State.reset) :=
  Legal.busWrite resetStateIsLegal rfl 0x08 v

/-- Settles O39, from the bits of the STATUS word and the legal values of STATUS. -/
theorem statusWordFieldsAndLegalValues : Obligations.StatusWordFieldsAndLegalValues := by
  refine ⟨?_, by decide, ?_, ?_, ?_⟩
  · intro s
    exact ⟨s.status.word_ready, s.status.word_busy, s.status.word_done, s.status.word_err, s.status.word_errcode,
      s.status.word_overrun, Nat.div_eq_of_lt s.status.word_lt⟩
  · intro s h
    rw [s.status.word_busy, s.status.word_done, s.status.word_err, s.status.word_errcode]
    exact ⟨h.status.busy_done, h.status.err_done, h.status.errcode_err, h.status.errcode_le⟩
  · intro s v
    exact congrArg (setStatus · s) (s.status.hostWrite_eq v)
  · exact ⟨_, legal_acceptCommand_reset 0, rfl, rfl⟩

/-- Settles O40: a CMD write is `acceptCommand` when idle and `dropWrite` while busy. -/
theorem commandWriteIsAcceptedWhenIdle : Obligations.CommandWriteIsAcceptedWhenIdle := by
  refine ⟨?_, ?_, rfl⟩
  · intro s v hidle
    rw [busWrite_cmd_of_idle hidle, readData_busRead_cmd]
    exact ⟨rfl, rfl⟩
  · intro s v hbusy
    rw [busWrite_cmd_of_busy hbusy, readData_busRead_cmd]
    exact ⟨rfl, rfl⟩

end Sys2Proof.Machine

/-! SUPPORT. Proofs about the register window and the host's accesses (20_memory.md): first the payload's bytes, then
what the window's reads and writes do, then the Host's turn, then what steps and runs keep. -/

namespace Sys2Proof.Machine

/-! ## The payload's bytes -/

theorem ser_length (w : Words) : (ser w).length = 16 := rfl

/-- Word j's low byte stands at 2j and its high byte after it (R45). -/
theorem payloadByte_ser (w : Words) (j : Fin 8) :
    payloadByte (ser w) (2 * j.val) = (w.get j).extractLsb' 0 8
      ∧ payloadByte (ser w) (2 * j.val + 1) = (w.get j).extractLsb' 8 8 := by
  match j with
  | 0 | 1 | 2 | 3 | 4 | 5 | 6 | 7 => exact ⟨rfl, rfl⟩

theorem words_get (b : List Byte) (j : Fin 8) : (words b).get j = wordOfBytes b j.val := by
  match j with
  | 0 | 1 | 2 | 3 | 4 | 5 | 6 | 7 => rfl

theorem wordOfBytes_low (b : List Byte) (j : Nat) :
    (wordOfBytes b j).extractLsb' 0 8 = payloadByte b (2 * j) := by
  apply BitVec.eq_of_getLsbD_eq
  intro i hi
  have hi16 : i < 16 := by omega
  simp [wordOfBytes, hi, hi16]

theorem wordOfBytes_high (b : List Byte) (j : Nat) :
    (wordOfBytes b j).extractLsb' 8 8 = payloadByte b (2 * j + 1) := by
  apply BitVec.eq_of_getLsbD_eq
  intro i hi
  have hi16 : 8 + i < 16 := by omega
  simp [wordOfBytes, hi, hi16]

theorem mask_toNat_bytes (v : Mask) :
    v.toNat = (v.extractLsb' 0 8).toNat + 256 * (v.extractLsb' 8 8).toNat := by
  have hlt := v.isLt
  rw [BitVec.extractLsb'_toNat, BitVec.extractLsb'_toNat, Nat.shiftRight_zero, Nat.shiftRight_eq_div_pow]
  omega

theorem wordOfBytes_toNat (b : List Byte) (j : Nat) :
    (wordOfBytes b j).toNat = (payloadByte b (2 * j)).toNat + 256 * (payloadByte b (2 * j + 1)).toNat := by
  rw [mask_toNat_bytes, wordOfBytes_low, wordOfBytes_high]

/-- Two payloads that agree in every word's two bytes are equal. -/
theorem eq_of_payloadByte_eq {a b : List Byte} (ha : a.length = 16) (hb : b.length = 16)
    (h : ∀ j : Fin 8, payloadByte a (2 * j.val) = payloadByte b (2 * j.val)
      ∧ payloadByte a (2 * j.val + 1) = payloadByte b (2 * j.val + 1)) : a = b := by
  apply List.ext_getElem (ha.trans hb.symm)
  intro i hia hib
  obtain ⟨heven, hodd⟩ := h ⟨i / 2, by omega⟩
  have hbyte : payloadByte a i = payloadByte b i := by
    rcases Nat.mod_two_eq_zero_or_one i with hi | hi
    · rwa [show 2 * (i / 2) = i by omega] at heven
    · rwa [show 2 * (i / 2) + 1 = i by omega] at hodd
  rwa [payloadByte, payloadByte, List.getElem?_eq_getElem hia, List.getElem?_eq_getElem hib] at hbyte

/-- ser undoes words on 16 bytes (R45). -/
theorem ser_words {b : List Byte} (hb : b.length = 16) : ser (words b) = b := by
  refine eq_of_payloadByte_eq (ser_length _) hb fun j => ?_
  obtain ⟨hlow, hhigh⟩ := payloadByte_ser (words b) j
  rw [hlow, hhigh, words_get, wordOfBytes_low, wordOfBytes_high]
  exact ⟨rfl, rfl⟩

/-- Settles O22: byte 2j and byte 2j + 1 of a payload are the two halves of word j. -/
theorem serAndWordsAreInverse : Obligations.SerAndWordsAreInverse := by
  refine ⟨fun w => ⟨ser_length w, words_ser w, payloadByte_ser w⟩, fun b hb => ser_words hb, ?_, fun s => rfl⟩
  intro b j
  rw [words_get, wordOfBytes_toNat]

/-! ## The byte lanes of a register -/

theorem lanes_getElem? (v : Word) (n : Fin 4) : (lanes v)[n.val]? = some (v.extractLsb' (8 * n.val) 8) := by
  match n with
  | 0 | 1 | 2 | 3 => rfl

/-- A 16-bit register has its two bytes in lanes 0 and 1 (R46). -/
theorem lanes_zeroExtend_take (m : Mask) :
    (lanes (m.zeroExtend 32)).take 2 = [m.extractLsb' 0 8, m.extractLsb' 8 8] := by
  have hbyte (k : Nat) (hk : k ≤ 8) : (m.zeroExtend 32).extractLsb' k 8 = m.extractLsb' k 8 := by
    apply BitVec.eq_of_getLsbD_eq
    intro i hi
    have hlt : k + i < 32 := by omega
    simp [hi, hlt]
  rw [lanes, List.take_succ_cons, List.take_succ_cons, List.take_zero, hbyte 0 (by omega), hbyte 8 (by omega)]

theorem ser_eq_flatMap_slots (w : Words) :
    ser w = slots.flatMap fun j => [(w.get j).extractLsb' 0 8, (w.get j).extractLsb' 8 8] := rfl

/-! ## Reads of the window -/

theorem busRead_of_idle {s : State} (h : s.status.busy = false) (off : Nat) :
    busRead off s = receive (readReg s (regAt off)) s := by
  rw [busRead, h, Bool.false_and]
  rfl

theorem busRead_of_busy_of_result {s : State} {off : Nat} (h : s.status.busy = true)
    (hres : (regAt off).isResult = true) :
    busRead off s = drawFree (receive ((Config.freeRead s.freeIndex).zeroExtend 32) s) := by
  rw [busRead, h, hres]
  rfl

/-- With no command pending the read at a register's offset gives its word (R41). -/
theorem readData_busRead_regOffset {s : State} (h : s.status.busy = false) (r : Reg) :
    (busRead (regOffset r) s).readData = readReg s r := by
  rw [busRead_readData_of_idle _ s h, regAt_regOffset]

theorem readData_busRead_reserved {off : Nat} (hr : regAt off = .reserved) (s : State) :
    (busRead off s).readData = 0 :=
  readData_busRead_of_not_result hr rfl s

/-- What the host has read last is no register's word. -/
theorem readReg_receive (v : Word) (s : State) (r : Reg) : readReg (receive v s) r = readReg s r := by
  cases r <;> rfl

theorem zeroExtend_toNat_lt (m : Mask) : (m.zeroExtend 32).toNat < 65536 := by
  rw [BitVec.toNat_setWidth]
  exact Nat.lt_of_le_of_lt (Nat.mod_le _ _) m.isLt

/-- Every register but CAP, STATUS and CMD is 16 bits wide or reserved (R20, R43). -/
theorem readReg_lt (s : State) {r : Reg} (hcap : r ≠ .cap) (hstatus : r ≠ .status) (hcmd : r ≠ .cmd) :
    (readReg s r).toNat < 65536 := by
  cases r with
  | cap => exact absurd rfl hcap
  | status => exact absurd rfl hstatus
  | cmd => exact absurd rfl hcmd
  | maskIn | maskOut | keyhdr | wIn | wOut => exact zeroExtend_toNat_lt _
  | reserved => exact Nat.zero_lt_succ _

/-- The three full-width registers stand below offset 0x10 (R41). -/
theorem regAt_narrow {off : Nat} (h : 0x10 ≤ off) : regAt off ≠ .cap ∧ regAt off ≠ .status ∧ regAt off ≠ .cmd := by
  rw [regAt, if_neg (by omega), if_neg (by omega), if_neg (by omega)]
  repeat' split
  all_goals exact ⟨nofun, nofun, nofun⟩

/-- Settles O37: each offset of the map is its register's, and the others are reserved. -/
theorem registerMapOfTheWindow : Obligations.RegisterMapOfTheWindow := by
  intro s hidle
  have hread (r : Reg) := readData_busRead_regOffset hidle r
  exact ⟨readData_busRead_cap s, hread .status, hread .cmd, hread .maskIn, hread .maskOut, hread .keyhdr,
    fun j => hread (.wIn j), fun j => hread (.wOut j), hread .reserved, readData_busRead_reserved rfl s,
    fun off hoff _ => readData_busRead_reserved (regAt_high off hoff) s⟩

/-- Settles O43: a read changes only what the host holds, and draws a free value from a result register when BUSY = 1. -/
theorem readsChangeNoRegister : Obligations.ReadsChangeNoRegister := by
  refine ⟨fun s off => sameRegisters_busRead off s.schedule s, ?_, ?_⟩
  · intro s off hidle
    have hread := busRead_of_idle hidle off
    have hagain : (busRead off (busRead off s)).readData = readReg (busRead off s) (regAt off) :=
      busRead_readData_of_idle off _ (by rwa [busRead_status])
    rw [hagain, hread, readReg_receive]
    exact ⟨rfl, rfl⟩
  · intro s off hbusy hoff
    have hres : (regAt off).isResult = true := by
      obtain rfl | rfl | ⟨j, rfl⟩ := hoff
      · rfl
      · rfl
      · exact congrArg Reg.isResult (regAt_regOffset (.wOut j))
    rw [busRead_of_busy_of_result hbusy hres]
    exact ⟨rfl, rfl, zeroExtend_toNat_lt _⟩

/-- Settles O44: each W_OUT read gives a word whose lanes 0 and 1 are its two payload bytes. -/
theorem windowLanesGiveThePayload : Obligations.WindowLanesGiveThePayload := by
  refine ⟨lanes_getElem?, fun s hidle => ?_⟩
  have hlanes (j : Fin 8) : (lanes (busRead (0x40 + 4 * j.val) s).readData).take 2
      = [(s.wOut.get j).extractLsb' 0 8, (s.wOut.get j).extractLsb' 8 8] := by
    have hread : (busRead (0x40 + 4 * j.val) s).readData = (s.wOut.get j).zeroExtend 32 :=
      readData_busRead_regOffset hidle (.wOut j)
    rw [hread, lanes_zeroExtend_take]
  simp only [hlanes, ser_eq_flatMap_slots]

/-! ## Writes of the window -/

theorem busWrite_at_reserved {off : Nat} (hr : regAt off = .reserved) (v : Word) (s : State) : busWrite off v s = s := by
  rw [busWrite, hr]

theorem busWrite_at_wOut {off : Nat} (h : 0x40 ≤ off ∧ off < 0x60) (v : Word) (s : State) : busWrite off v s = s := by
  rw [busWrite, regAt_wOut off h]

theorem busWrite_maskIn_of_idle {s : State} (h : s.status.busy = false) (v : Word) :
    busWrite 0x10 v s = setMaskIn (v.extractLsb' 0 16) s := by
  have hmaskIn : regAt 0x10 = .maskIn := rfl
  simp only [busWrite, hmaskIn, h, Bool.false_eq_true, if_false]

theorem busWrite_wIn_of_idle {s : State} (h : s.status.busy = false) (j : Fin 8) (v : Word) :
    busWrite (0x20 + 4 * j.val) v s = setWIn (s.wIn.set j (v.extractLsb' 0 16)) s := by
  have hwIn : regAt (0x20 + 4 * j.val) = .wIn j := regAt_regOffset (.wIn j)
  simp only [busWrite, hwIn, h, Bool.false_eq_true, if_false]

/-- Settles O42, by the register at each offset: what it reads as and what a write does to it. -/
theorem reservedBitsReadZeroAndIgnoreWrites : Obligations.ReservedBitsReadZeroAndIgnoreWrites := by
  refine ⟨?_, ?_, ?_, ?_, ?_, ?_⟩
  · intro s off v hoff
    have hr : regAt off = .reserved := by
      obtain rfl | rfl | ⟨hlow, _⟩ := hoff
      · rfl
      · rfl
      · exact regAt_high off hlow
    exact ⟨readData_busRead_reserved hr s, busWrite_at_reserved hr v s⟩
  · intro s off hoff
    obtain ⟨hcap, hstatus, hcmd⟩ := regAt_narrow hoff
    rw [busRead]
    split
    · exact zeroExtend_toNat_lt _
    · exact readReg_lt s hcap hstatus hcmd
  · intro s off v hoff
    obtain rfl | rfl | rfl | ⟨hlow, hhigh⟩ := hoff
    · rfl
    · rfl
    · rfl
    · exact busWrite_at_wOut ⟨hlow, by omega⟩ v s
  · intro s v hidle
    refine ⟨busWrite_maskIn_of_idle hidle v, fun j => ⟨_, busWrite_wIn_of_idle hidle j v, ?_, fun i hij => ?_⟩⟩
    · rw [Words.get_set, if_pos rfl]
    · rw [Words.get_set, if_neg hij]
  · intro s v
    exact congrArg (setStatus · s) (s.status.hostWrite_eq v)
  · intro s hidle
    have hwrite : busWrite 0x20 0xABCD1234#32 s = setWIn (s.wIn.set 0 (BitVec.extractLsb' 0 16 0xABCD1234#32)) s :=
      busWrite_wIn_of_idle hidle 0 0xABCD1234#32
    rw [hwrite, setWIn_wIn, Words.get_set, if_pos rfl]
    decide

/-! ## The Host's turn -/

section HostTurn

variable {s : State} {rest : List Agent} {ops : List HostOp} {w : Width} {off : Nat} {v : Word}

theorem accessDefined_eq_false (h : w ≠ .w32 ∨ off % 4 ≠ 0 ∨ 0x100 ≤ off) : accessDefined w off = false := by
  rw [Bool.eq_false_iff, ne_eq, accessDefined_iff]
  rintro ⟨hw, halign, hlt⟩
  obtain hw' | halign' | hge := h
  · exact hw' hw
  · exact halign' halign
  · omega

/-- A defined write on the host's turn goes through; while reset is asserted it has no effect (entry 7). -/
theorem step_host_write (he : s.status.errcode.toNat ≤ 2) (hs : s.schedule = .host :: rest)
    (hp : s.program = .write w off v :: ops) (hd : accessDefined w off = true) :
    step s = .next (setProgram ops (if s.resetLine then setSchedule rest (holdReset s)
      else busWrite off v (setSchedule rest (holdReset s)))) := by
  rw [step_scheduled s .host rest he hs]
  simp only [agentStep, hostStep, setSchedule_program, holdReset_program, hp, if_pos hd, setSchedule_resetLine,
    holdReset_resetLine]

/-- An undefined access on the host's turn has no step (R42). -/
theorem step_host_undefined (he : s.status.errcode.toNat ≤ 2) (hs : s.schedule = .host :: rest)
    (hp : s.program = .read w off :: ops ∨ s.program = .write w off v :: ops) (hd : accessDefined w off = false) :
    step s = .refused .undefinedAccess := by
  rw [step_scheduled s .host rest he hs]
  rcases hp with hp | hp <;>
    simp only [agentStep, hostStep, setSchedule_program, holdReset_program, hp, hd, Bool.false_eq_true, if_false]

end HostTurn

/-- Settles O45: an undefined access is refused, and a defined one is the window's read or write. -/
theorem undefinedAccessIsRefused : Obligations.UndefinedAccessIsRefused := by
  intro s rest ops w off v he hs hp
  refine ⟨fun hundef => step_host_undefined he hs hp (accessDefined_eq_false hundef), fun hw halign hlt => ?_⟩
  have hd : accessDefined w off = true := (accessDefined_iff w off).mpr ⟨hw, halign, hlt⟩
  obtain hp | hp := hp
  · refine ⟨_, step_host_read he hs hp hd, rfl, by simp, fun hr _ => ?_, fun _ hp' => ?_⟩
    · rw [holdReset_released s hr]
    · exact absurd (hp.symm.trans hp') nofun
  · refine ⟨_, step_host_write he hs hp hd, rfl, ?_, fun _ hp' => ?_, fun hr _ => ?_⟩
    · split <;> simp
    · exact absurd (hp.symm.trans hp') nofun
    · rw [holdReset_released s hr, hr, if_neg Bool.false_ne_true]

/-- Settles O46: the Host's turn finds the second master's access at the head of the program. -/
theorem secondHostIsRefused : Obligations.SecondHostIsRefused := by
  intro s rest ops he hs hp
  rw [step_scheduled s .host rest he hs]
  simp only [agentStep, hostStep, setSchedule_program, holdReset_program, hp]

/-! ## What a step that does not touch reset keeps -/

/-- Only the Builder writes READY or the store, and it has no step once READY = 1 (R28, R53). -/
theorem RunningStep.tables_stay {s t : State} (h : RunningStep s t) (hready : s.status.ready = true) :
    t.status.ready = true ∧ t.pt = s.pt := by
  cases h with
  | kept t hsame =>
    obtain ⟨⟨hstatus, _⟩, hpt⟩ := hsame
    exact ⟨by rw [hstatus, hready], hpt⟩
  | write off v rest u hh ha hw =>
    obtain ⟨_, _, _, hpt, _, _, _, _, _, _, hkeep⟩ := WriteOutcome.frame off v _ u hw
    exact ⟨hkeep.trans hready, hpt⟩
  | command i t hb hd hx =>
    obtain ⟨_, _, _, hpt, _⟩ := hx.frame
    obtain ⟨hkeep, _⟩ := hx.completed
    exact ⟨hkeep.trans hready, hpt⟩
  | illegal => exact ⟨hready, rfl⟩
  | built hunready => exact absurd (hunready.symm.trans hready) Bool.false_ne_true

/-- Settles O57, case by case over what a step that does not touch reset can do. -/
theorem readyAndTablesStay : Obligations.ReadyAndTablesStay := by
  intro s t hready hr hassert hrelease h
  obtain ⟨hkeep, hpt⟩ := (runningStep_of_step hr hassert hrelease h).tables_stay hready
  exact ⟨hkeep, fun k m => by rw [hpt]⟩

/-- A host write that clears DONE is an accepted command, which sets BUSY (R33). -/
theorem WriteOutcome.busy_or_done {off : Nat} {v : Word} {s t : State} (h : WriteOutcome off v s t)
    (hs : s.status.busy = true ∨ s.status.done = true) : t.status.busy = true ∨ t.status.done = true := by
  cases h with
  | ignored | maskIn | wIn | dropped => exact hs
  | status => rwa [setStatus_status, Status.hostWrite_busy, Status.hostWrite_done]
  | accepted => exact .inl rfl

/-- A command clears BUSY only as it sets DONE, and a write clears DONE only as it sets BUSY (R48). -/
theorem RunningStep.busy_or_done {s t : State} (h : RunningStep s t)
    (hs : s.status.busy = true ∨ s.status.done = true) : t.status.busy = true ∨ t.status.done = true := by
  cases h with
  | kept t hsame =>
    obtain ⟨⟨hstatus, _⟩, _⟩ := hsame
    rwa [hstatus]
  | write off v rest u hh ha hw => exact hw.busy_or_done hs
  | command i t hb hd hx =>
    obtain ⟨_, _, _, hdone⟩ := hx.completed
    exact .inr hdone
  | illegal => exact .inr rfl
  | built => exact hs

/-- Settles O59: an accepted write sets BUSY, and every step keeps BUSY or DONE. -/
theorem busyOrDoneAfterAcceptedWrite : Obligations.BusyOrDoneAfterAcceptedWrite := by
  refine ⟨?_, ?_⟩
  · intro s v hidle
    rw [busWrite_cmd_of_idle hidle]
    rfl
  · intro s t hr hassert hrelease hs h
    exact (runningStep_of_step hr hassert hrelease h).busy_or_done hs

/-! ## Runs that never stop -/

/-- The host operations that have a step: defined accesses of the one host, loops on STATUS and reset events (R42, R47). -/
def UnrefusedOp (op : HostOp) : Bool := PlainOp op || decide (op = .assertReset) || decide (op = .releaseReset)

/-- The Host stops only by a refusal, and only at an operation that has no step. -/
theorem hostStep_next_or_refused (s : State) :
    (∃ t, hostStep s = .next t)
      ∨ ∃ op ops r, s.program = op :: ops ∧ UnrefusedOp op = false ∧ hostStep s = .refused r := by
  cases hp : s.program with
  | nil => exact .inl ⟨s, by simp only [hostStep, hp]⟩
  | cons op rest =>
    cases op with
    | read w off | write w off v =>
      simp only [hostStep, hp]
      split
      · exact .inl ⟨_, rfl⟩
      · rename_i hd
        exact .inr ⟨_, _, _, rfl, by simp [UnrefusedOp, PlainOp, hd], rfl⟩
    | readUntil | assertReset | releaseReset =>
      simp only [hostStep, hp]
      exact .inl ⟨_, rfl⟩
    | foreignAccess =>
      simp only [hostStep, hp]
      exact .inr ⟨_, _, _, rfl, rfl, rfl⟩

/-- The Engine always answers a next state: an illegal word completes with an error (R141). -/
theorem engineStep_next (s : State) : ∃ t, engineStep s = .next t := by
  unfold engineStep
  split
  · exact exec_next _ s
  · exact ⟨_, rfl⟩

/-- An agent's turn stops only by the Host's refusal (60_exceptions.md). -/
theorem agentStep_next_or_refused (a : Agent) (s : State) :
    (∃ t, agentStep a s = .next t)
      ∨ ∃ op ops r, s.program = op :: ops ∧ UnrefusedOp op = false ∧ agentStep a s = .refused r := by
  cases a with
  | host => exact hostStep_next_or_refused s
  | engine =>
    rw [agentStep]
    split
    · exact .inl (engineStep_next s)
    · exact .inl ⟨s, rfl⟩
  | builder =>
    rw [agentStep]
    split <;> exact .inl ⟨_, rfl⟩

/-- No legal state faults, and its step is refused only at an operation that has no step. -/
theorem Legal.step_next_or_refused {s : State} (h : Legal s) :
    (∃ t, step s = .next t) ∨ ∃ op ops r, s.program = op :: ops ∧ UnrefusedOp op = false ∧ step s = .refused r := by
  rw [step_eq s h.status.errcode_le, h.holdReset_eq]
  exact agentStep_next_or_refused (nextAgent s) (Machine.setSchedule s.schedule.tail s)

/-- The Host takes its accesses in program order (R48). -/
theorem HostOutcome.program_suffix {s t : State} (h : HostOutcome s t) : t.program <:+ s.program := by
  cases h with
  | nothing => exact List.suffix_refl _
  | pollAgain => exact ⟨[], busRead_program _ _⟩
  | read _ _ rest hp | write _ _ _ rest hp | writeInReset _ _ _ rest hp | pollDone _ rest hp | assertReset rest hp
  | releaseReset rest hp =>
    rw [hp]
    exact List.suffix_cons _ rest

/-- No agent adds to the host's program. -/
theorem AgentOutcome.program_suffix {s t : State} {a : Agent} (h : AgentOutcome s a t) : t.program <:+ s.program := by
  cases h with
  | host t hh => exact hh.program_suffix
  | command i t he hd hx =>
    obtain ⟨_, _, _, _, _, hprogram, _⟩ := hx.frame
    exact ⟨[], hprogram⟩
  | illegal | waiting | built | noBuild => exact List.suffix_refl _

theorem program_suffix_of_step {s t : State} (h : step s = .next t) : t.program <:+ s.program := by
  obtain ⟨_, ho⟩ := step_outcome s t h
  simpa using ho.program_suffix

/-- A legal state whose host program has only operations with a step answers a next state of the same kind. -/
theorem Legal.step_unrefused {s : State} (h : Legal s) (hops : s.program.all UnrefusedOp = true) :
    ∃ t, step s = .next t ∧ Legal t ∧ t.program.all UnrefusedOp = true := by
  obtain ⟨t, ht⟩ | ⟨op, ops, _, hp, hop, _⟩ := h.step_next_or_refused
  · refine ⟨t, ht, everyStepKeepsLegality s t h ht, ?_⟩
    rw [List.all_eq_true] at hops ⊢
    exact fun op hmem => hops op ((program_suffix_of_step ht).subset hmem)
  · rw [hp, List.all_cons, hop] at hops
    cases hops

theorem run_succ_of_step (M : Host.Core) {s t : M.State} (h : M.step s = .next t) (n : Nat) :
    M.run (n + 1) s = M.run n t := by
  rw [Host.Core.run, h]

/-- Settles O54, by induction on the number of steps. -/
theorem legalRunsNeverStop : Obligations.LegalRunsNeverStop := by
  refine ⟨?_, ?_⟩
  · intro s r h hfault
    obtain ⟨t, ht⟩ | ⟨_, _, _, _, _, hrefused⟩ := h.step_next_or_refused
    · exact absurd (hfault.symm.trans ht) nofun
    · exact absurd (hfault.symm.trans hrefused) nofun
  · intro n
    induction n with
    | zero => exact fun s h _ => ⟨s, rfl, h⟩
    | succ n ih =>
      intro s h hops
      obtain ⟨t, ht, hlegal, hops'⟩ := h.step_unrefused hops
      rw [run_succ_of_step Sys2Proof.core ht]
      exact ih t hlegal hops'

end Sys2Proof.Machine

/-! SUPPORT. Proofs about command words and command text (30_encoding.md): first the fields the decoder reads and the
sum the encoder writes, which meet in `decode_eq_ok_iff`; then the byte lanes, the rows of the opcode table and the count
of the legal words; then the assembler and the host's loop on STATUS. -/

namespace Sys2Proof.Machine

/-! ## The fields of a command word -/

theorem fieldOp_eq (v : Word) : fieldOp v = v.toNat % 16 := by
  rw [fieldOp, BitVec.extractLsb'_toNat, Nat.shiftRight_zero]

theorem fieldT_val (v : Word) : (fieldT v).val = v.toNat / 16 % 8 := by
  rw [fieldT, BitVec.val_toFin, BitVec.extractLsb'_toNat, Nat.shiftRight_eq_div_pow]

theorem fieldX_eq_iff (v : Word) (f : Bool) : fieldX v = f ↔ v.toNat / 128 % 2 = f.toNat := by
  rw [fieldX, BitVec.getLsbD, Nat.testBit_eq_decide_div_mod_eq]
  cases f <;> simp

theorem fieldS_val (v : Word) : (fieldS v).val = v.toNat / 256 % 32 := by
  rw [fieldS, BitVec.val_toFin, BitVec.extractLsb'_toNat, Nat.shiftRight_eq_div_pow]

/-- No bit from n on is set exactly when the word is below 2^n (R65). -/
theorem extractLsb'_high_eq_zero_iff (v : Word) {n m : Nat} (h : n + m = 32) :
    v.extractLsb' n m = 0#m ↔ v.toNat < 2 ^ n := by
  have hlt : v.toNat < 2 ^ n * 2 ^ m := by
    rw [← Nat.pow_add, h]
    exact v.isLt
  rw [← BitVec.toNat_inj, BitVec.extractLsb'_toNat, BitVec.toNat_zero, Nat.shiftRight_eq_div_pow,
    Nat.mod_eq_of_lt (Nat.div_lt_of_lt_mul hlt), Nat.div_eq_zero_iff_lt (Nat.two_pow_pos n)]

/-! ## The decoder -/

/-- The word's fields are those of the command, and no bit outside its format is set (R65 to R67). -/
def HasFields (v : Word) : Instr → Prop
  | .nop => fieldOp v = 0 ∧ v.extractLsb' 4 28 = 0#28
  | .perm k => fieldOp v = 1 ∧ v.extractLsb' 7 25 = 0#25 ∧ fieldT v = k
  | .apply k f p =>
    fieldOp v = 2 ∧ v.extractLsb' 13 19 = 0#19 ∧ fieldT v = k ∧ fieldX v = f ∧ fieldS v = p ∧ p.val ≤ 23
  | .canon => fieldOp v = 3 ∧ v.extractLsb' 4 28 = 0#28

/-- The decoder answers a command exactly for the words with its fields (R68). -/
theorem decode_eq_ok_iff_hasFields (v : Word) (i : Instr) : decode v = .ok i ↔ HasFields v i := by
  constructor
  · intro h
    unfold decode at h
    split at h
    case h_1 hop =>
      split at h
      next hstray => cases h; exact ⟨hop, hstray⟩
      next => cases h
    case h_2 hop =>
      split at h
      next hstray => cases h; exact ⟨hop, hstray, rfl⟩
      next => cases h
    case h_3 hop =>
      split at h
      next hstray =>
        split at h
        next hle => cases h; exact ⟨hop, hstray, rfl, rfl, rfl, hle⟩
        next => cases h
      next => cases h
    case h_4 hop =>
      split at h
      next hstray => cases h; exact ⟨hop, hstray⟩
      next => cases h
    case h_5 => cases h
  · cases i with
    | nop =>
      rintro ⟨hop, hstray⟩
      simp only [decode, hop, if_pos hstray]
    | perm k =>
      rintro ⟨hop, hstray, rfl⟩
      simp only [decode, hop, if_pos hstray]
    | apply k f p =>
      rintro ⟨hop, hstray, rfl, rfl, rfl, hle⟩
      simp only [decode, hop, if_pos hstray, if_pos hle]
    | canon =>
      rintro ⟨hop, hstray⟩
      simp only [decode, hop, if_pos hstray]

/-! ## The encoder -/

/-- A field ORed in above the bits in use is added, times its place value. -/
theorem toNat_or_shiftLeft {a : Word} {n x : Nat} (ha : a.toNat < 2 ^ n) (hx : x * 2 ^ n < 2 ^ 32) :
    (a ||| (BitVec.ofNat 32 x <<< n)).toNat = a.toNat + 2 ^ n * x := by
  have hlt : x < 2 ^ 32 := Nat.lt_of_le_of_lt (Nat.le_mul_of_pos_right x (Nat.two_pow_pos n)) hx
  rw [BitVec.toNat_or, BitVec.toNat_shiftLeft, BitVec.toNat_ofNat, Nat.mod_eq_of_lt hlt, Nat.shiftLeft_eq,
    Nat.mod_eq_of_lt hx, Nat.or_comm, Nat.mul_comm x, ← Nat.two_pow_add_eq_or_of_lt ha, Nat.add_comm]

theorem encode_nop_toNat : (encode .nop).toNat = 0 := rfl

theorem encode_canon_toNat : (encode .canon).toNat = 3 := rfl

theorem encode_perm_toNat (k : Fin 8) : (encode (.perm k)).toNat = 1 + 16 * k.val :=
  toNat_or_shiftLeft (by decide) (by omega)

/-- The four fields of APPLY do not overlap, so its word is their sum (R70). -/
theorem encode_apply_toNat (k : Fin 8) (f : Bool) (p : Fin 32) :
    (encode (.apply k f p)).toNat = 2 + 16 * k.val + 128 * f.toNat + 256 * p.val := by
  have hf : (if f then 1#32 else 0#32) = BitVec.ofNat 32 f.toNat := by cases f <;> rfl
  have hflt : f.toNat < 2 := f.toNat_lt
  have hk : (0x2#32 ||| (BitVec.ofNat 32 k.val <<< 4)).toNat = 2 + 16 * k.val :=
    toNat_or_shiftLeft (by decide) (by omega)
  have hkf : (0x2#32 ||| (BitVec.ofNat 32 k.val <<< 4) ||| (BitVec.ofNat 32 f.toNat <<< 7)).toNat
      = 2 + 16 * k.val + 128 * f.toNat := by
    rw [← hk]
    exact toNat_or_shiftLeft (by omega) (by omega)
  rw [encode, hf, ← hkf]
  exact toNat_or_shiftLeft (by omega) (by omega)

/-- The only word with a command's fields is the one the encoder gives (R67, R70). -/
theorem hasFields_iff_encode (v : Word) (i : Instr) : HasFields v i ↔ i.WellFormed = true ∧ encode i = v := by
  rw [← BitVec.toNat_inj]
  cases i with
  | nop =>
    rw [HasFields, fieldOp_eq, extractLsb'_high_eq_zero_iff v rfl, encode_nop_toNat, Instr.WellFormed]
    simp only [true_and]
    omega
  | perm k =>
    rw [HasFields, fieldOp_eq, extractLsb'_high_eq_zero_iff v rfl, Fin.ext_iff, fieldT_val, encode_perm_toNat,
      Instr.WellFormed]
    simp only [true_and]
    omega
  | apply k f p =>
    have hflt : f.toNat < 2 := f.toNat_lt
    rw [HasFields, fieldOp_eq, extractLsb'_high_eq_zero_iff v rfl, Fin.ext_iff, fieldT_val, fieldX_eq_iff,
      Fin.ext_iff, fieldS_val, encode_apply_toNat, Instr.WellFormed, decide_eq_true_iff]
    omega
  | canon =>
    rw [HasFields, fieldOp_eq, extractLsb'_high_eq_zero_iff v rfl, encode_canon_toNat, Instr.WellFormed]
    simp only [true_and]
    omega

/-- The legal words are those of the well-formed commands, and each decodes to its command. -/
theorem decode_eq_ok_iff (v : Word) (i : Instr) : decode v = .ok i ↔ i.WellFormed = true ∧ encode i = v :=
  (decode_eq_ok_iff_hasFields v i).trans (hasFields_iff_encode v i)

theorem decode_encode {i : Instr} (h : i.WellFormed = true) : decode (encode i) = .ok i :=
  (decode_eq_ok_iff (encode i) i).mpr ⟨h, rfl⟩

theorem encode_injective {i j : Instr} (hi : i.WellFormed = true) (hj : j.WellFormed = true)
    (h : encode i = encode j) : i = j := by
  have heq : Decoded.ok i = Decoded.ok j := by rw [← decode_encode hi, h, decode_encode hj]
  exact Decoded.ok.inj heq

/-- Settles O1: the encoder's word is a sum of fields that do not overlap, and the decoder reads them back. -/
theorem decodeAfterEncodeAgrees : Obligations.DecodeAfterEncodeAgrees := by
  refine ⟨fun i => decode_encode, fun i j => encode_injective, encode_nop_toNat, encode_perm_toNat,
    encode_apply_toNat, encode_canon_toNat, rfl, rfl, rfl, fun k f p hp => ?_⟩
  have hf : f.toNat < 2 := f.toNat_lt
  rw [encode_apply_toNat]
  omega

/-! ## The bytes of a word -/

theorem getLsbD_lane_shiftLeft (v : Word) (n : Nat) {i : Nat} (hi : i < 32) :
    (((v.extractLsb' n 8).zeroExtend 32) <<< n).getLsbD i = (v.getLsbD i && decide (n ≤ i ∧ i < n + 8)) := by
  by_cases hn : n ≤ i
  · have hsum : n + (i - n) = i := by omega
    have hlt : i - n < 8 ↔ i < n + 8 := by omega
    simp [hn, hi, hsum, hlt, Bool.and_comm]
  · have hlt : i < n := by omega
    simp [hn, hlt]

/-- A word is put together again from its four lanes (R46). -/
theorem ofLanes_lanes (v : Word) :
    ofLanes (v.extractLsb' 0 8) (v.extractLsb' 8 8) (v.extractLsb' 16 8) (v.extractLsb' 24 8) = v := by
  apply BitVec.eq_of_getLsbD_eq
  intro i hi
  have hlane0 := getLsbD_lane_shiftLeft v 0 hi
  rw [BitVec.shiftLeft_zero] at hlane0
  simp only [ofLanes, BitVec.getLsbD_or, hlane0, getLsbD_lane_shiftLeft v _ hi, ← Bool.and_or_distrib_left,
    ← Bool.decide_or]
  have hsome : ((0 ≤ i ∧ i < 0 + 8 ∨ 8 ≤ i ∧ i < 8 + 8) ∨ 16 ≤ i ∧ i < 16 + 8) ∨ 24 ≤ i ∧ i < 24 + 8 := by omega
  rw [decide_eq_true hsome, Bool.and_true]

theorem decodeBytes_lanes (v : Word) : decodeBytes (lanes v) = decode v := by
  rw [lanes, decodeBytes, ofLanes_lanes]

/-- Settles O2: a word with a command's fields is that command's sum, and its lanes make it up again. -/
theorem decodedWordIsItsEncoding : Obligations.DecodedWordIsItsEncoding := by
  intro v i h
  obtain ⟨hwf, hword⟩ := (decode_eq_ok_iff v i).mp h
  exact ⟨hwf, hword, by rw [decodeBytes_lanes, h]⟩

/-! ## The rows of the opcode table -/

/-- The mask of a row whose fields end below bit n: OP, and every bit from n on (R67). -/
def rowMask (n : Nat) : Word := 0xF#32 ||| (BitVec.allOnes 32 <<< n)

/-- Under a row's mask a word keeps OP and its bits from n on. -/
theorem and_rowMask_toNat {n : Nat} (hn : 4 ≤ n) (v : Word) :
    (v &&& rowMask n).toNat = v.toNat % 16 + 2 ^ n * (v.toNat / 2 ^ n) := by
  have hop : (v &&& 0xF#32).toNat = v.toNat % 16 :=
    Nat.and_two_pow_sub_one_eq_mod v.toNat 4
  have hhigh : v &&& (BitVec.allOnes 32 <<< n) = BitVec.ofNat 32 (v.toNat / 2 ^ n) <<< n := by
    rw [← BitVec.shiftLeft_ushiftRight, ← Nat.shiftRight_eq_div_pow, ← BitVec.toNat_ushiftRight, BitVec.ofNat_toNat,
      BitVec.setWidth_eq]
  have hpow : 2 ^ 4 ≤ 2 ^ n := Nat.pow_le_pow_right (by decide) hn
  have hquot : v.toNat / 2 ^ n * 2 ^ n < 2 ^ 32 := Nat.lt_of_le_of_lt (Nat.div_mul_le_self _ _) v.isLt
  rw [rowMask, BitVec.and_or_distrib_left, hhigh, toNat_or_shiftLeft (by omega) hquot, hop]

/-- A word agrees with a row on the bits of its mask exactly when OP has the row's value and no bit past the row's fields
is set. -/
theorem and_rowMask_eq_iff {n m : Nat} (hn : 4 ≤ n) (hm : n + m = 32) (v : Word) {w : Word} (hw : w.toNat < 16) :
    v &&& rowMask n = w ↔ fieldOp v = w.toNat ∧ v.extractLsb' n m = 0#m := by
  have hpow : 2 ^ 4 ≤ 2 ^ n := Nat.pow_le_pow_right (by decide) hn
  rw [← BitVec.toNat_inj, and_rowMask_toNat hn, fieldOp_eq, extractLsb'_high_eq_zero_iff v hm]
  constructor
  · intro h
    have hquot : v.toNat / 2 ^ n = 0 := by
      refine Nat.eq_zero_of_not_pos fun hpos => ?_
      have hle := Nat.le_mul_of_pos_right (2 ^ n) hpos
      omega
    rw [hquot] at h
    exact ⟨h, (Nat.div_eq_zero_iff_lt (Nat.two_pow_pos n)).mp hquot⟩
  · rintro ⟨hop, hlt⟩
    rw [Nat.div_eq_of_lt hlt, hop]
    rfl

section Rows

variable (v : Word)

theorem matches_nop_row_iff : v &&& 0xFFFFFFFF#32 = 0x00000000#32 ↔ fieldOp v = 0 ∧ v.extractLsb' 4 28 = 0#28 :=
  and_rowMask_eq_iff (n := 4) (by decide) rfl v (by decide)

theorem matches_perm_row_iff : v &&& 0xFFFFFF8F#32 = 0x00000001#32 ↔ fieldOp v = 1 ∧ v.extractLsb' 7 25 = 0#25 :=
  and_rowMask_eq_iff (n := 7) (by decide) rfl v (by decide)

theorem matches_apply_row_iff : v &&& 0xFFFFE00F#32 = 0x00000002#32 ↔ fieldOp v = 2 ∧ v.extractLsb' 13 19 = 0#19 :=
  and_rowMask_eq_iff (n := 13) (by decide) rfl v (by decide)

theorem matches_canon_row_iff : v &&& 0xFFFFFFFF#32 = 0x00000003#32 ↔ fieldOp v = 3 ∧ v.extractLsb' 4 28 = 0#28 :=
  and_rowMask_eq_iff (n := 4) (by decide) rfl v (by decide)

theorem decode_eq_nop_iff : decode v = .ok .nop ↔ v &&& 0xFFFFFFFF#32 = 0x00000000#32 := by
  rw [decode_eq_ok_iff_hasFields, HasFields, matches_nop_row_iff]

theorem decode_eq_perm_iff (k : Fin 8) :
    decode v = .ok (.perm k) ↔ v &&& 0xFFFFFF8F#32 = 0x00000001#32 ∧ v.toNat / 16 % 8 = k.val := by
  rw [decode_eq_ok_iff_hasFields, HasFields, matches_perm_row_iff, Fin.ext_iff, fieldT_val, and_assoc]

theorem decode_eq_apply_iff (k : Fin 8) (f : Bool) (p : Fin 32) :
    decode v = .ok (.apply k f p) ↔ v &&& 0xFFFFE00F#32 = 0x00000002#32 ∧ v.toNat / 16 % 8 = k.val ∧ v.getLsbD 7 = f
      ∧ v.toNat / 256 % 32 = p.val ∧ p.val ≤ 23 := by
  rw [decode_eq_ok_iff_hasFields, HasFields, matches_apply_row_iff, Fin.ext_iff, fieldT_val, Fin.ext_iff, fieldS_val,
    fieldX, and_assoc]

theorem decode_eq_canon_iff : decode v = .ok .canon ↔ v &&& 0xFFFFFFFF#32 = 0x00000003#32 := by
  rw [decode_eq_ok_iff_hasFields, HasFields, matches_canon_row_iff]

end Rows

/-! ## The legal commands, listed -/

/-- A list keeps its members apart under a function that is one-to-one on them. -/
theorem nodup_map_of_injective_on {α β : Type} {f : α → β} {l : List α}
    (hf : ∀ a ∈ l, ∀ b ∈ l, f a = f b → a = b) (hd : l.Nodup) : (l.map f).Nodup :=
  List.pairwise_map.mpr (hd.imp_of_mem fun ha hb hne h => hne (hf _ ha _ hb h))

theorem idx_elemOfIdx {n : Nat} (hn : n < 384) : (elemOfIdx n).idx = n := by
  have hf : (decide (n / 24 % 2 = 1)).toNat = n / 24 % 2 := by
    rw [← Nat.testBit_zero, Nat.toNat_testBit, Nat.pow_zero, Nat.div_one]
  rw [elemOfIdx, SymElem.idx, hf, Fin.val_ofNat, Fin.val_ofNat]
  omega

theorem elements_nodup : elements.Nodup := by
  rw [elements_eq_idx]
  refine nodup_map_of_injective_on (fun m hm n hn h => ?_) List.nodup_range
  rw [← idx_elemOfIdx (List.mem_range.mp hm), h, idx_elemOfIdx (List.mem_range.mp hn)]

theorem elements_length : elements.length = 384 := by
  rw [elements_eq_idx, List.length_map, List.length_range]

/-- APPLY of a symmetry element. -/
def applyOf (g : SymElem) : Instr := .apply g.k g.f (g.p.castLE (by decide))

theorem applyOf_injective : Function.Injective applyOf := by
  rintro ⟨k, f, p⟩ ⟨k', f', p'⟩ h
  obtain ⟨hk, hf, hp⟩ := Instr.apply.inj h
  have hval := Fin.ext_iff.mp hp
  rw [SymElem.mk.injEq]
  exact ⟨hk, hf, Fin.ext hval⟩

/-- The eight PERM commands, by transform. -/
def permCommands : List Instr := spatialIds.map .perm

/-- The legal APPLY commands, by the element's index. -/
def applyCommands : List Instr := elements.map applyOf

/-- The legal commands of R67. -/
def legalCommands : List Instr := .nop :: .canon :: (permCommands ++ applyCommands)

theorem mem_permCommands (k : Fin 8) : .perm k ∈ permCommands := by
  have hmem : k ∈ spatialIds := by
    revert k
    decide
  exact List.mem_map_of_mem hmem

theorem mem_applyCommands (k : Fin 8) (f : Bool) (p : Fin 32) : .apply k f p ∈ applyCommands ↔ p.val ≤ 23 := by
  constructor
  · intro h
    obtain ⟨g, _, hg⟩ := List.mem_map.mp h
    obtain ⟨_, _, rfl⟩ := Instr.apply.inj hg
    exact Nat.le_of_lt_succ g.p.isLt
  · intro hp
    exact List.mem_map_of_mem (f := applyOf) (mem_elements ⟨k, f, p.val, Nat.lt_succ_of_le hp⟩)

/-- The list holds the legal commands of R67, and no other. -/
theorem mem_legalCommands (i : Instr) : i ∈ legalCommands ↔ i.WellFormed = true := by
  cases i with
  | nop => simp [legalCommands, Instr.WellFormed]
  | canon => simp [legalCommands, Instr.WellFormed]
  | perm k => simp [legalCommands, Instr.WellFormed, mem_permCommands]
  | apply k f p => simp [legalCommands, Instr.WellFormed, mem_applyCommands, permCommands]

theorem permCommands_nodup : permCommands.Nodup :=
  nodup_map_of_injective_on (fun _ _ _ _ => Instr.perm.inj) (by decide)

theorem applyCommands_nodup : applyCommands.Nodup :=
  nodup_map_of_injective_on (fun _ _ _ _ h => applyOf_injective h) elements_nodup

theorem legalCommands_nodup : legalCommands.Nodup := by
  rw [legalCommands, List.nodup_cons, List.nodup_cons, List.nodup_append]
  refine ⟨by simp [permCommands, applyCommands, applyOf], by simp [permCommands, applyCommands, applyOf],
    permCommands_nodup, applyCommands_nodup, ?_⟩
  rintro i hi j hj rfl
  obtain ⟨k, _, rfl⟩ := List.mem_map.mp hi
  obtain ⟨g, _, hg⟩ := List.mem_map.mp hj
  cases hg

/-- The words of different legal commands differ, so they can be counted by their commands. -/
theorem exists_words_of_commands (l : List Instr) (hd : l.Nodup) (hwf : ∀ i ∈ l, i.WellFormed = true) :
    ∃ ws : List Word, ws.Nodup ∧ ws.length = l.length ∧ ∀ v, v ∈ ws ↔ ∃ i ∈ l, decode v = .ok i := by
  refine ⟨l.map encode, ?_, List.length_map .., fun v => ?_⟩
  · exact nodup_map_of_injective_on (fun i hi j hj => encode_injective (hwf i hi) (hwf j hj)) hd
  · rw [List.mem_map]
    refine exists_congr fun i => and_congr_right fun hi => ?_
    rw [decode_eq_ok_iff, hwf i hi, eq_self, true_and]

theorem exists_perm_words :
    ∃ ws : List Word, ws.Nodup ∧ ws.length = 8 ∧ ∀ v, v ∈ ws ↔ ∃ k, decode v = .ok (.perm k) := by
  obtain ⟨ws, hd, hlen, hmem⟩ := exists_words_of_commands permCommands permCommands_nodup
    (fun i hi => (mem_legalCommands i).mp (by simp [legalCommands, hi]))
  refine ⟨ws, hd, hlen, fun v => (hmem v).trans ⟨?_, ?_⟩⟩
  · rintro ⟨i, hi, hv⟩
    obtain ⟨k, _, rfl⟩ := List.mem_map.mp hi
    exact ⟨k, hv⟩
  · rintro ⟨k, hv⟩
    exact ⟨.perm k, mem_permCommands k, hv⟩

theorem exists_apply_words :
    ∃ ws : List Word, ws.Nodup ∧ ws.length = 384 ∧ ∀ v, v ∈ ws ↔ ∃ k f p, decode v = .ok (.apply k f p) := by
  obtain ⟨ws, hd, hlen, hmem⟩ := exists_words_of_commands applyCommands applyCommands_nodup
    (fun i hi => (mem_legalCommands i).mp (by simp [legalCommands, hi]))
  rw [applyCommands, List.length_map, elements_length] at hlen
  refine ⟨ws, hd, hlen, fun v => (hmem v).trans ⟨?_, ?_⟩⟩
  · rintro ⟨i, hi, hv⟩
    obtain ⟨g, _, rfl⟩ := List.mem_map.mp hi
    exact ⟨g.k, g.f, _, hv⟩
  · rintro ⟨k, f, p, hv⟩
    obtain ⟨hwf, _⟩ := (decode_eq_ok_iff v _).mp hv
    exact ⟨_, (mem_applyCommands k f p).mpr (of_decide_eq_true hwf), hv⟩

theorem exists_legal_words :
    ∃ ws : List Word, ws.Nodup ∧ ws.length = 394 ∧ ∀ v, v ∈ ws ↔ ∃ i, decode v = .ok i := by
  obtain ⟨ws, hd, hlen, hmem⟩ := exists_words_of_commands legalCommands legalCommands_nodup
    (fun i => (mem_legalCommands i).mp)
  refine ⟨ws, hd, ?_, fun v => (hmem v).trans ⟨?_, ?_⟩⟩
  · rw [hlen, legalCommands, applyCommands, List.length_cons, List.length_cons, List.length_append, List.length_map,
      elements_length]
    rfl
  · rintro ⟨i, _, hv⟩
    exact ⟨i, hv⟩
  · rintro ⟨i, hv⟩
    obtain ⟨hwf, _⟩ := (decode_eq_ok_iff v i).mp hv
    exact ⟨i, (mem_legalCommands i).mpr hwf, hv⟩

/-- Settles O3: the row of a word is fixed by OP, so no two rows overlap, and the legal words are counted by their
commands. -/
theorem legalWordsMatchTheirRow : Obligations.LegalWordsMatchTheirRow := by
  refine ⟨fun v => ?_, exists_perm_words, exists_apply_words, exists_legal_words⟩
  refine ⟨decode_eq_nop_iff v, decode_eq_perm_iff v, decode_eq_apply_iff v, decode_eq_canon_iff v, ?_⟩
  -- Each overlap now gives OP two values.
  rw [matches_nop_row_iff, matches_perm_row_iff, matches_apply_row_iff, matches_canon_row_iff]
  omega

/-- Settles O4, by evaluating the decoder on the ten words. -/
theorem specWordsDecode : Obligations.SpecWordsDecode := by
  unfold Obligations.SpecWordsDecode
  decide

/-! ## The assembler -/

theorem lookupText_eq_some_iff {α : Type} {table : List (String × α)} (hd : (table.map Prod.fst).Nodup) (text : String)
    (v : α) : lookupText table text = some v ↔ (text, v) ∈ table :=
  ⟨mem_of_lookupText table text v, lookupText_of_mem table hd text v⟩

/-- The lines the assembler accepts, each with the command it stands for (R71). -/
inductive CommandLine : String → List String → Instr → Prop where
  | nop : CommandLine "nop" [] .nop
  | perm {t : String} {k : Fin 8} (ht : asmTransform t = some k) : CommandLine "perm" [t] (.perm k)
  | apply {t x s : String} {k : Fin 8} {f : Bool} {p : Fin 24} (ht : asmTransform t = some k) (hx : asmSwap x = some f)
      (hs : asmShape s = some p) : CommandLine "apply" [t, x, s] (applyOf ⟨k, f, p⟩)
  | canon : CommandLine "canon" [] .canon

theorem assemble_eq_some_iff (mnemonic : String) (operands : List String) (i : Instr) :
    assemble mnemonic operands = some i ↔ CommandLine mnemonic operands i := by
  constructor
  · intro h
    unfold assemble at h
    split at h
    case h_1 =>
      have hrow := mem_of_lookupText _ _ _ h
      rw [List.mem_cons, List.mem_singleton, Prod.mk.injEq, Prod.mk.injEq] at hrow
      obtain ⟨rfl, rfl⟩ | ⟨rfl, rfl⟩ := hrow
      · exact .nop
      · exact .canon
    case h_2 t =>
      split at h
      next hm =>
        obtain ⟨k, ht, rfl⟩ := Option.map_eq_some_iff.mp h
        rw [eq_of_beq hm]
        exact .perm ht
      next => cases h
    case h_3 t x s =>
      split at h
      next hm =>
        split at h
        next k f p ht hx hs =>
          cases h
          rw [eq_of_beq hm]
          exact .apply ht hx hs
        next => cases h
      next => cases h
    case h_4 => cases h
  · intro h
    cases h with
    | nop => rfl
    | canon => rfl
    | perm ht => simp [assemble, ht]
    | apply ht hx hs => simp [assemble, ht, hx, hs, applyOf]

theorem CommandLine.wellFormed {mnemonic : String} {operands : List String} {i : Instr}
    (h : CommandLine mnemonic operands i) : i.WellFormed = true := by
  cases h with
  | nop | perm | canon => rfl
  | @apply _ _ _ _ _ p => exact decide_eq_true (Nat.le_of_lt_succ p.isLt)

/-- The texts of `<s>`: the numbers 0 to 23, and the names of the shape permutations (R71). -/
def shapeTexts : List (String × Fin 24) :=
  shapePermNumbers.zip shapePermIds ++ shapePermIds.map fun p => (shapePermName p, p)

theorem asmShape_eq_some_iff (s : String) (p : Fin 24) : asmShape s = some p ↔ (s, p) ∈ shapeTexts :=
  lookupText_eq_some_iff (by decide) s p

/-- The same texts, with the values that field S takes. -/
def fieldShapeTexts : List (String × Fin 32) := shapeTexts.map (Prod.map id (Fin.castLE (by decide)))

theorem mem_fieldShapeTexts_iff (s : String) (p : Fin 32) :
    (s, p) ∈ fieldShapeTexts ↔ ∃ q : Fin 24, asmShape s = some q ∧ q.castLE (by decide) = p := by
  rw [fieldShapeTexts, List.mem_map]
  constructor
  · rintro ⟨⟨name, q⟩, hq, heq⟩
    obtain ⟨rfl, rfl⟩ := Prod.mk.inj heq
    exact ⟨q, (asmShape_eq_some_iff name q).mpr hq, rfl⟩
  · rintro ⟨q, hq, rfl⟩
    exact ⟨(s, q), (asmShape_eq_some_iff s q).mp hq, rfl⟩

/-- Settles O5: a line the assembler accepts is one of `CommandLine`, and each of those is a well-formed command. -/
theorem assemblerWritesOnlyLegalWords : Obligations.AssemblerWritesOnlyLegalWords := by
  unfold Obligations.AssemblerWritesOnlyLegalWords
  intro transforms swaps shapes
  have htransform (t : String) (k : Fin 8) : asmTransform t = some k ↔ (t, k) ∈ transforms :=
    lookupText_eq_some_iff (by decide) t k
  have hswap (x : String) (f : Bool) : asmSwap x = some f ↔ (x, f) ∈ swaps :=
    (lookupText_eq_some_iff (by decide) x f).trans (List.Perm.mem_iff (by decide))
  have hshape (s : String) (p : Fin 32) :
      (s, p) ∈ shapes ↔ ∃ q : Fin 24, asmShape s = some q ∧ q.castLE (by decide) = p := by
    have hshapes : shapes = fieldShapeTexts := by decide
    rw [hshapes, mem_fieldShapeTexts_iff]
  refine ⟨fun mnemonic operands i => (assemble_eq_some_iff mnemonic operands i).trans ⟨?_, ?_⟩,
    fun mnemonic operands i h => ?_⟩
  · rintro (_ | ht | ⟨ht, hx, hs⟩ | _)
    · exact .inl ⟨rfl, rfl, rfl⟩
    · exact .inr (.inl ⟨_, _, (htransform _ _).mp ht, rfl, rfl, rfl⟩)
    · exact .inr (.inr (.inl ⟨_, _, _, _, _, _, (htransform _ _).mp ht, (hswap _ _).mp hx,
        (hshape _ _).mpr ⟨_, hs, rfl⟩, rfl, rfl, rfl⟩))
    · exact .inr (.inr (.inr ⟨rfl, rfl, rfl⟩))
  · rintro (⟨rfl, rfl, rfl⟩ | ⟨t, k, ht, rfl, rfl, rfl⟩ | ⟨t, k, x, f, s, p, ht, hx, hs, rfl, rfl, rfl⟩
      | ⟨rfl, rfl, rfl⟩)
    · exact .nop
    · exact .perm ((htransform t k).mpr ht)
    · obtain ⟨q, hq, rfl⟩ := (hshape s p).mp hs
      exact .apply ((htransform t k).mpr ht) ((hswap x f).mpr hx) hq
    · exact .canon
  · have hwf : i.WellFormed = true := ((assemble_eq_some_iff mnemonic operands i).mp h).wellFormed
    exact ⟨hwf, decode_encode hwf⟩

/-! ## The host's loop on STATUS -/

/-- One turn of a loop on a STATUS bit reads STATUS, and takes the loop off the program when the bit is 1 (R72). -/
theorem hostStep_readUntil (s : State) {bit : Fin 32} {ops : List HostOp} (hp : s.program = .readUntil bit :: ops) :
    hostStep s = .next (if s.status.word.getLsbD bit.val then setProgram ops (busRead statusOffset s)
      else busRead statusOffset s) := by
  rw [hostStep, hp]

/-- Settles O47: the step is the Host's turn on the loop, which reads STATUS whether or not it goes on. -/
theorem pollGoesOnWhenItsBitIsSet : Obligations.PollGoesOnWhenItsBitIsSet := by
  intro s ops bit he hr hnext hp
  have hstep := step_eq s he
  rw [holdReset_released s hr, hnext, agentStep, hostStep_readUntil (setSchedule s.schedule.tail s) hp] at hstep
  refine ⟨_, hstep, ?_⟩
  have hread : (busRead statusOffset (setSchedule s.schedule.tail s)).readData = s.status.word :=
    readData_busRead_of_not_result (r := .status) rfl rfl _
  have hsame : SameRegisters (busRead statusOffset (setSchedule s.schedule.tail s)) s :=
    sameRegisters_busRead statusOffset _ s
  by_cases hbit : s.status.word.getLsbD bit.val = true
  · rw [setSchedule_status, if_pos hbit]
    exact ⟨hsame.setProgram ops, hread, by simp, fun _ => rfl, fun hclear => absurd (hbit.symm.trans hclear) nofun⟩
  · rw [setSchedule_status, if_neg hbit]
    exact ⟨hsame, hread, by simp, fun hset => absurd hset hbit, fun _ => by simp⟩

end Sys2Proof.Machine

/-! SUPPORT. Proofs about the permutation tables and about NOP and PERM (40_permutation.md): first the squares'
destinations and the group table, then the image of a mask, then the built tables, whose entries are images, and last
the two commands. -/

namespace Sys2Proof.Machine

/-! ## Destination squares -/

/-- The square in row r and column c goes where the coordinate map says (R80, R81). -/
theorem destSquare_coord (k : Fin 8) (r c : Fin 4) :
    destSquare k (4 * r.val + c.val) = 4 * (moveCoord k r.val c.val).1 + (moveCoord k r.val c.val).2 := by
  have hrow : rowOf (4 * r.val + c.val) = r.val := by unfold rowOf; omega
  have hcol : colOf (4 * r.val + c.val) = c.val := by unfold colOf; omega
  rw [destSquare, hrow, hcol]

theorem destSquare_identity (i : Nat) : destSquare 0 i = i := Nat.div_add_mod i 4

/-- Every square is reached (R80). -/
theorem destSquare_surjective (k : Fin 8) {j : Nat} (hj : j < 16) : ∃ i, i < 16 ∧ destSquare k i = j :=
  ⟨destSquare (invSpatial k) j, destSquare_lt _ j hj, destSquare_inv' k j hj⟩

theorem destSquare_perm (k : Fin 8) : ((List.range 16).map (destSquare k)).Perm (List.range 16) := by
  revert k; decide

/-- Where a corner and its neighbour go tells which of the eight transforms it was. -/
theorem eq_of_destSquare_corner {a b : Fin 8} (h0 : destSquare a 0 = destSquare b 0)
    (h1 : destSquare a 1 = destSquare b 1) : a = b := by
  revert a b; decide

/-- Settles O6: the coordinate formulas are those of R81, and the lists and the names are evaluated. -/
theorem squarePermutationsAreTheSpecs : Obligations.SquarePermutationsAreTheSpecs := by
  refine ⟨fun r c => ?_, rfl, rfl, rfl, rfl, rfl, rfl, rfl, rfl, by decide⟩
  exact ⟨destSquare_coord 0 r c, destSquare_coord 1 r c, destSquare_coord 2 r c, destSquare_coord 3 r c,
    destSquare_coord 4 r c, destSquare_coord 5 r c, destSquare_coord 6 r c, destSquare_coord 7 r c⟩

/-! ## The group table -/

/-- C is associative because it composes functions, and no two transforms move all squares alike (R84). -/
theorem composeSpatial_assoc (a b c : Fin 8) :
    composeSpatial (composeSpatial a b) c = composeSpatial a (composeSpatial b c) := by
  have hsame {i : Nat} (hi : i < 16) :
      destSquare (composeSpatial (composeSpatial a b) c) i = destSquare (composeSpatial a (composeSpatial b c)) i := by
    rw [← destSquare_compose _ c i hi, ← destSquare_compose a b i hi, ← destSquare_compose a _ i hi,
      destSquare_compose b c _ (destSquare_lt a i hi)]
  exact eq_of_destSquare_corner (hsame (by decide)) (hsame (by decide))

theorem composeSpatial_identity (a : Fin 8) : composeSpatial 0 a = a ∧ composeSpatial a 0 = a := by
  revert a; decide

theorem composeSpatial_inv (a : Fin 8) :
    composeSpatial a (invSpatial a) = 0 ∧ composeSpatial (invSpatial a) a = 0 := by
  revert a; decide

/-! ## The image of a mask -/

/-- A mask whose bit P_k(i) is bit i of m, for every square i, is the image of m: the squares P_k(i) are all there are
(R82). -/
theorem eq_scatter_of_dest {k : Fin 8} {m v : Mask} (h : ∀ i, i < 16 → v.getLsbD (destSquare k i) = m.getLsbD i) :
    v = scatter k m := by
  apply mask_ext
  intro j hj
  obtain ⟨i, hi, rfl⟩ := destSquare_surjective k hj
  rw [h i hi, scatter_getLsbD_dest k m i hi]

/-- The image is the OR of one bit for each set bit of the mask (R82). -/
theorem scatter_eq_foldl_or (k : Fin 8) (m : Mask) :
    scatter k m
      = ((List.range 16).filter fun i => m.getLsbD i).foldl (fun acc i => acc ||| (1#16 <<< destSquare k i)) 0#16 := by
  rw [List.foldl_filter]
  rfl

theorem scatter_identity (m : Mask) : scatter 0 m = m :=
  (eq_scatter_of_dest fun i _ => by rw [destSquare_identity]).symm

/-- One transform after another is the one the table C names (R84). -/
theorem scatter_scatter (a b : Fin 8) (m : Mask) : scatter b (scatter a m) = scatter (composeSpatial a b) m := by
  apply eq_scatter_of_dest
  intro i hi
  rw [← destSquare_compose a b i hi, scatter_getLsbD_dest b _ _ (destSquare_lt a i hi), scatter_getLsbD_dest a m i hi]

theorem scatter_inv_scatter (k : Fin 8) (m : Mask) : scatter (invSpatial k) (scatter k m) = m := by
  rw [scatter_scatter, (composeSpatial_inv k).1, scatter_identity]

theorem scatter_scatter_inv (k : Fin 8) (m : Mask) : scatter k (scatter (invSpatial k) m) = m := by
  rw [scatter_scatter, (composeSpatial_inv k).2, scatter_identity]

theorem scatter_injective (k : Fin 8) {a b : Mask} (h : scatter k a = scatter k b) : a = b := by
  rw [← scatter_inv_scatter k a, h, scatter_inv_scatter]

/-- The piece on square i alone goes to square P_k(i) (R80). -/
theorem scatter_twoPow (k : Fin 8) {i : Nat} (hi : i < 16) :
    scatter k (BitVec.twoPow 16 i) = BitVec.twoPow 16 (destSquare k i) := by
  refine (eq_scatter_of_dest fun j hj => ?_).symm
  have hiff : destSquare k i = destSquare k j ↔ i = j :=
    ⟨destSquare_injective k i j hi hj, congrArg (destSquare k)⟩
  simp only [BitVec.getLsbD_twoPow, hiff, destSquare_lt k i hi, hi]

/-- Transforms with the same images are the same transform. -/
theorem scatter_faithful {a b : Fin 8} (h : ∀ m, scatter a m = scatter b m) : a = b := by
  have hdest {i : Nat} (hi : i < 16) : destSquare a i = destSquare b i := by
    have himage := h (BitVec.twoPow 16 i)
    rw [scatter_twoPow a hi, scatter_twoPow b hi] at himage
    have hbit := congrArg (fun v : Mask => v.getLsbD (destSquare a i)) himage
    simp only [BitVec.getLsbD_twoPow, destSquare_lt a i hi, destSquare_lt b i hi, decide_true, Bool.true_and] at hbit
    exact (of_decide_eq_true hbit.symm).symm
  exact eq_of_destSquare_corner (hdest (by decide)) (hdest (by decide))

theorem scatter_or (k : Fin 8) (a b : Mask) : scatter k (a ||| b) = scatter k a ||| scatter k b := by
  refine (eq_scatter_of_dest fun i hi => ?_).symm
  rw [BitVec.getLsbD_or, BitVec.getLsbD_or, scatter_getLsbD_dest k a i hi, scatter_getLsbD_dest k b i hi]

theorem scatter_not (k : Fin 8) (m : Mask) : scatter k (~~~m) = ~~~(scatter k m) := by
  refine (eq_scatter_of_dest fun i hi => ?_).symm
  simp only [BitVec.getLsbD_not, scatter_getLsbD_dest k m i hi, destSquare_lt k i hi, hi]

theorem scatter_full (k : Fin 8) : scatter k 0xFFFF#16 = 0xFFFF#16 := by
  have hfull : 0xFFFF#16 = ~~~(0 : Mask) := rfl
  rw [hfull, scatter_not, scatter_zero]

theorem scatter_disjoint (k : Fin 8) {a b : Mask} (h : a &&& b = 0#16) : scatter k a &&& scatter k b = 0#16 := by
  rw [← scatter_and, h]
  exact scatter_zero k

/-- Permuting the squares keeps their number (R83). -/
theorem popcount_scatter (k : Fin 8) (m : Mask) : popcount (scatter k m) = popcount m := by
  have hperm := (destSquare_perm k).countP_eq (scatter k m).getLsbD
  rw [List.countP_map] at hperm
  rw [popcount, popcount, ← List.countP_eq_length_filter, ← List.countP_eq_length_filter, ← hperm]
  apply List.countP_congr
  intro i hi
  rw [Function.comp_apply, scatter_getLsbD_dest k m i (List.mem_range.mp hi)]

/-- The rows and the columns of the board as masks (R83). -/
def lineMasks : List Mask :=
  [0x000F#16, 0x00F0#16, 0x0F00#16, 0xF000#16, 0x1111#16, 0x2222#16, 0x4444#16, 0x8888#16]

/-- The four zones of the board as masks (R83). -/
def zoneMasks : List Mask := [0x0033#16, 0x00CC#16, 0x3300#16, 0xCC00#16]

/-- Every transform permutes the rows and columns, and permutes the zones (R83). -/
theorem map_scatter_lineMasks (k : Fin 8) : (lineMasks.map (scatter k)).Perm lineMasks := by
  revert k; decide +kernel

theorem map_scatter_zoneMasks (k : Fin 8) : (zoneMasks.map (scatter k)).Perm zoneMasks := by
  revert k; decide +kernel

theorem scatter_mem_of_perm {k : Fin 8} {l : List Mask} (hl : (l.map (scatter k)).Perm l) {m : Mask} (hm : m ∈ l) :
    scatter k m ∈ l :=
  hl.mem_iff.mp (List.mem_map_of_mem hm)

theorem scatter_centre (k : Fin 8) : scatter k 0x0660#16 = 0x0660#16 := by
  revert k; decide +kernel

theorem scatter_corners (k : Fin 8) : scatter k 0x9009#16 = 0x9009#16 := by
  revert k; decide +kernel

/-! ## Built tables -/

/-- Settles O7: a built entry is the mask's image, whose bits R82 gives. -/
theorem tableEntryIsTheBitPermutation : Obligations.TableEntryIsTheBitPermutation := by
  intro s ht hready k m
  rw [ht hready]
  exact ⟨scatter_getLsbD_dest k m, scatter_eq_foldl_or k m⟩

/-- Settles O8, clause by clause from what the image of a mask keeps. -/
theorem everyTableKeepsMaskStructure : Obligations.EveryTableKeepsMaskStructure := by
  intro s ht hready k
  simp only [ht hready]
  exact ⟨fun a b => scatter_injective k, fun b => ⟨scatter (invSpatial k) b, scatter_scatter_inv k b⟩,
    popcount_scatter k, scatter_or k, scatter_and k, scatter_not k, scatter_zero k, scatter_full k, scatter_identity,
    fun a b => scatter_disjoint k, fun m => scatter_mem_of_perm (map_scatter_lineMasks k),
    fun m => scatter_mem_of_perm (map_scatter_zoneMasks k), scatter_centre k, scatter_corners k⟩

/-- Settles O9: on masks C names the composition, and its laws are those of the squares' permutations. -/
theorem tablesComposeByTheGroupTable : Obligations.TablesComposeByTheGroupTable := by
  refine ⟨fun s ht hready a b m => ?_, fun s ht hready a b h => ?_, composeSpatial_assoc, composeSpatial_identity,
    fun a => ⟨invSpatial a, composeSpatial_inv a⟩, rfl, rfl, rfl, rfl, rfl⟩
  · rw [ht hready, ht hready, ht hready, scatter_scatter]
  · simp only [ht hready] at h
    exact scatter_faithful h

/-- Settles O10: composed with its inverse a transform is the identity, which keeps every mask. -/
theorem inverseTableUndoesTheTable : Obligations.InverseTableUndoesTheTable := by
  refine ⟨fun s ht hready k m => ?_, rfl, rfl, by decide⟩
  rw [ht hready, ht hready, scatter_inv_scatter]

/-! ## NOP and PERM -/

/-- A legal word's low four bits are its command's operation number (R66). -/
theorem opNumber_of_decode {v : Word} {i : Instr} (h : decode v = .ok i) : Laws.opNumber i = v.toNat % 16 := by
  obtain ⟨-, rfl⟩ := (decode_eq_ok_iff v i).mp h
  rw [← fieldOp_eq]
  cases i with
  | nop => exact Laws.OpField.nop.symm
  | perm k => exact (Laws.OpField.perm k).symm
  | apply k f p => exact (Laws.OpField.apply k f p).symm
  | canon => exact Laws.OpField.canon.symm

/-- A word that decodes to no command is rejected by name (R68). -/
theorem decode_error_of_ne_ok {v : Word} (h : ∀ i, decode v ≠ .ok i) : ∃ e, decode v = .error e := by
  cases hd : decode v with
  | ok i => exact absurd hd (h i)
  | error e => exact ⟨e, rfl⟩

/-- NOP's word is the only legal one with OP = 0 (R88). -/
theorem decode_error_of_op_zero {v : Word} (hop : v.toNat % 16 = 0) (hv : v ≠ 0) : ∃ e, decode v = .error e := by
  apply decode_error_of_ne_ok
  intro i hi
  have hnum := (opNumber_of_decode hi).trans hop
  cases i with
  | nop => exact hv ((decode_eq_ok_iff v .nop).mp hi).2.symm
  | perm | apply | canon => cases hnum

/-- PERM's bits [31:7] must be zero (R89). -/
theorem decode_error_of_op_one {v : Word} (hop : v.toNat % 16 = 1) (hv : v.toNat / 128 ≠ 0) :
    ∃ e, decode v = .error e := by
  apply decode_error_of_ne_ok
  intro i hi
  have hnum := (opNumber_of_decode hi).trans hop
  cases i with
  | perm k =>
    have hword := congrArg BitVec.toNat ((decode_eq_ok_iff v (.perm k)).mp hi).2
    rw [encode_perm_toNat] at hword
    omega
  | nop | apply | canon => cases hnum

/-- The Engine waits for the tables (R163); its turn passes (entry 15). -/
theorem engine_waits_of_unready {s : State} (h : s.status.ready = false) : agentStep .engine s = .next s := by
  have henabled : ¬ engineEnabled s = true := fun he => by
    rw [((engineEnabled_iff s).mp he).2] at h
    cases h
  rw [agentStep, if_neg henabled]

/-- Settles O11: NOP is completion alone, and its word and its waiting follow the decoder and the Engine's guard. -/
theorem nopOnlyCompletes : Obligations.NopOnlyCompletes :=
  ⟨fun _ => ExecOutcome.nop.exec_eq, rfl, fun _ => decode_error_of_op_zero, fun _ => engine_waits_of_unready,
    _, ExecOutcome.nop.exec_eq, rfl⟩

/-- Settles O13: PERM's one outcome, written out. -/
theorem permReadsOneEntry : Obligations.PermReadsOneEntry := fun k _ => (ExecOutcome.perm k).exec_eq

/-- Settles O12: the entry PERM reads is the image of MASK_IN. -/
theorem permWritesTheImage : Obligations.PermWritesTheImage := by
  refine ⟨fun k s ht hready => ⟨_, permReadsOneEntry k s, ?_⟩, encode_perm_toNat, fun v => decode_error_of_op_one⟩
  rw [ht hready]
  refine ⟨scatter_getLsbD_dest k s.maskIn, rfl, fun hk => ?_, fun hm => ?_, fun hm => ?_, fun hk hm => ?_⟩
  · rw [hk, scatter_identity]
  · rw [hm]
    exact scatter_zero k
  · rw [hm, scatter_full]
  · rw [hk, hm]
    rfl

end Sys2Proof.Machine

/-! SUPPORT. Proofs about the symmetry elements and APPLY (41_symmetry_apply.md): the index, the shape permutations, the
action as a group action under built tables, counting squares, and last the command. -/

namespace Sys2Proof.Machine

/-! ## The index -/

/-- Every element is given by a number below 384: the loops list them all, in the order of the numbers (R100). -/
theorem exists_elemOfIdx (g : SymElem) : ∃ n, n < 384 ∧ elemOfIdx n = g := by
  have hg := mem_elements g
  rw [elements_eq_idx, List.mem_map] at hg
  obtain ⟨n, hn, rfl⟩ := hg
  exact ⟨n, List.mem_range.mp hn, rfl⟩

theorem idx_lt (g : SymElem) : g.idx < 384 := by
  obtain ⟨n, hn, rfl⟩ := exists_elemOfIdx g
  rwa [idx_elemOfIdx hn]

theorem elemOfIdx_idx (g : SymElem) : elemOfIdx g.idx = g := by
  obtain ⟨n, hn, rfl⟩ := exists_elemOfIdx g
  rw [idx_elemOfIdx hn]

theorem elements_map_idx : elements.map SymElem.idx = List.range 384 := by
  rw [elements_eq_idx, List.map_map]
  calc (List.range 384).map (SymElem.idx ∘ elemOfIdx)
      = (List.range 384).map id := List.map_congr_left fun _ hn => idx_elemOfIdx (List.mem_range.mp hn)
    _ = List.range 384 := List.map_id _

/-- Settles O30: the index and `elemOfIdx` undo each other, and the nested loops list the elements by index. -/
theorem elementIndexIsOneToOne : Obligations.ElementIndexIsOneToOne :=
  ⟨fun g => ⟨rfl, idx_lt g, elemOfIdx_idx g⟩, fun _ => idx_elemOfIdx, elements_map_idx⟩

/-! ## The shape permutations -/

/-- The rows of R101 rise with their index. -/
theorem shapePermNumber_lt_iff (p q : Fin 24) : p < q ↔ shapePermNumber p < shapePermNumber q := by
  revert p q; decide +kernel

theorem shapePerm_surjective (p : Fin 24) (a : Fin 4) : ∃ h, shapePerm p h = a := by
  revert p a; decide +kernel

/-- Every four different labels, in any order, are a row of R101. -/
theorem exists_shapePerm_row (a b c d : Fin 4) (hab : a ≠ b) (hac : a ≠ c) (had : a ≠ d) (hbc : b ≠ c) (hbd : b ≠ d)
    (hcd : c ≠ d) : ∃ p, shapePerm p 0 = a ∧ shapePerm p 1 = b ∧ shapePerm p 2 = c ∧ shapePerm p 3 = d := by
  revert a b c d; decide +kernel

/-- Every permutation of the shapes is a row of R101: the one its four values, all different, make up. -/
theorem exists_shapePerm (π : Fin 4 → Fin 4) (hπ : ∀ a b, π a = π b → a = b) : ∃ p, ∀ h, shapePerm p h = π h := by
  have hne {a b : Fin 4} (hab : a ≠ b) : π a ≠ π b := fun he => hab (hπ a b he)
  obtain ⟨p, h0, h1, h2, h3⟩ := exists_shapePerm_row (π 0) (π 1) (π 2) (π 3) (hne (by decide)) (hne (by decide))
    (hne (by decide)) (hne (by decide)) (hne (by decide)) (hne (by decide))
  refine ⟨p, fun h => ?_⟩
  match h with
  | 0 => exact h0
  | 1 => exact h1
  | 2 => exact h2
  | 3 => exact h3

theorem shapePerm_zero (h : Fin 4) : shapePerm 0 h = h := by
  revert h; decide

theorem exists_shapePerm_comp (p q : Fin 24) : ∃ r, ∀ h, shapePerm r h = shapePerm q (shapePerm p h) :=
  exists_shapePerm _ fun a b hab => shapePerm_injective p a b (shapePerm_injective q _ _ hab)

theorem exists_shapePerm_inverse (p : Fin 24) : ∃ q, ∀ h, shapePerm q (shapePerm p h) = h := by
  have hinv (a : Fin 4) : shapePerm p (shapePerm_surjective p a).choose = a := (shapePerm_surjective p a).choose_spec
  obtain ⟨q, hq⟩ := exists_shapePerm (fun a => (shapePerm_surjective p a).choose)
    fun a b hab => by rw [← hinv a, hab, hinv b]
  exact ⟨q, fun h => by rw [hq, shapePerm_injective p _ _ (hinv (shapePerm p h))]⟩

/-- Settles O31: the rows rise, and every permutation's four values make up a row. -/
theorem shapePermutationsInOrder : Obligations.ShapePermutationsInOrder :=
  ⟨shapePermNumber_lt_iff, shapePerm_injective, exists_shapePerm, shapePerm_zero, by decide, rfl⟩

/-! ## Slots and where an element moves their words -/

theorem swapColor_val (f : Bool) (c : Fin 2) : (swapColor f c).val = c.val ^^^ f.toNat := by
  revert f c; decide

theorem swapColor_true (c : Fin 2) : swapColor true c = 1 - c := by
  revert c; decide

theorem swapColor_false (c : Fin 2) : swapColor false c = c := rfl

theorem swapColor_xor (f f' : Bool) (c : Fin 2) : swapColor f' (swapColor f c) = swapColor (f ^^ f') c := by
  revert f f' c; decide

theorem destSlot_identity (j : Fin 8) : destSlot false 0 j = j := by
  rw [destSlot, shapePerm_zero, swapColor_false, slot_color_shape]

/-- Every slot is the destination of exactly one slot (R104). -/
theorem destSlot_unique (f : Bool) (p : Fin 24) (i : Fin 8) :
    ∃ j, destSlot f p j = i ∧ ∀ j', destSlot f p j' = i → j' = j := by
  obtain ⟨j, rfl⟩ := destSlot_surjective f p i
  exact ⟨j, rfl, fun j' => destSlot_injective f p j' j⟩

/-- One move of slots after another is a move of slots: colours add, shape permutations compose (R106). -/
theorem destSlot_destSlot (f₁ f₂ : Bool) {p₁ p₂ q : Fin 24} (hq : ∀ h, shapePerm q h = shapePerm p₂ (shapePerm p₁ h))
    (j : Fin 8) : destSlot f₂ p₂ (destSlot f₁ p₁ j) = destSlot (f₁ ^^ f₂) q j := by
  rw [destSlot, destSlot, slotColor_slot, slotShape_slot, swapColor_xor, ← hq, destSlot]

/-- The word of slot 4c + h stands in slot 4(c ⊕ f) + Π[p](h) of the image (R104). -/
theorem act_get_slot (t : Memory) (g : SymElem) (w : Words) (c : Fin 2) (h : Fin 4) :
    (act t g w).get (slot (swapColor g.f c) (shapePerm g.p h)) = t.read g.k (w.get (slot c h)) := by
  rw [← destSlot_slot, act_get_dest]

/-! ## Occupancy -/

theorem toList_eq_ofFn (w : Words) : w.toList = List.ofFn w.get := rfl

theorem foldl_or_getLsbD (l : List Mask) (acc : Mask) (i : Nat) :
    (l.foldl (· ||| ·) acc).getLsbD i = true ↔ acc.getLsbD i = true ∨ ∃ m ∈ l, m.getLsbD i = true := by
  induction l generalizing acc with
  | nil => simp only [List.foldl_nil, List.not_mem_nil, false_and, exists_false, or_false]
  | cons m l ih =>
    rw [List.foldl_cons, ih, BitVec.getLsbD_or, Bool.or_eq_true, or_assoc]
    simp only [List.mem_cons, exists_eq_or_imp]

/-- A square is occupied when some slot's word holds it (R109). -/
theorem occupancy_getLsbD (w : Words) (i : Nat) :
    w.occupancy.getLsbD i = true ↔ ∃ j, (w.get j).getLsbD i = true := by
  have hempty : ¬ (0#16).getLsbD i = true := by
    rw [BitVec.getLsbD_zero]
    exact Bool.false_ne_true
  rw [Words.occupancy, foldl_or_getLsbD, toList_eq_ofFn]
  constructor
  · rintro (h | ⟨m, hm, hi⟩)
    · exact absurd h hempty
    · obtain ⟨j, rfl⟩ := List.mem_ofFn.mp hm
      exact ⟨j, hi⟩
  · rintro ⟨j, hi⟩
    exact .inr ⟨w.get j, List.mem_ofFn.mpr ⟨j, rfl⟩, hi⟩

/-! ## The action under built tables -/

section BuiltTables

variable {t : Memory} (ht : ∀ k m, t.read k m = scatter k m)
include ht

/-- Acting twice is acting once, by the composed element (R106). -/
theorem act_act (g₁ g₂ : SymElem) {q : Fin 24} (hq : ∀ h, shapePerm q h = shapePerm g₂.p (shapePerm g₁.p h))
    (w : Words) : act t g₂ (act t g₁ w) = act t ⟨composeSpatial g₁.k g₂.k, g₁.f ^^ g₂.f, q⟩ w := by
  apply eq_act_of_dest
  intro j
  rw [← destSlot_destSlot g₁.f g₂.f hq, act_get_dest, act_get_dest, ht, ht, ht, scatter_scatter]

theorem act_identity (w : Words) : act t ⟨0, false, 0⟩ w = w := by
  refine (eq_act_of_dest t ⟨0, false, 0⟩ w w fun j => ?_).symm
  rw [destSlot_identity, ht, scatter_identity]

theorem act_inverse (g : SymElem) {q : Fin 24} (hq : ∀ h, shapePerm q (shapePerm g.p h) = h) (w : Words) :
    act t ⟨invSpatial g.k, g.f, q⟩ (act t g w) = w := by
  have hid (h : Fin 4) : shapePerm 0 h = shapePerm q (shapePerm g.p h) := by rw [hq, shapePerm_zero]
  rw [act_act ht g ⟨invSpatial g.k, g.f, q⟩ hid, (composeSpatial_inv g.k).1, Bool.xor_self, act_identity ht]

/-- After an element that keeps the shapes, the shapes move as the second element says. -/
theorem act_act_of_shapes_kept_first (k : Fin 8) (f : Bool) (g : SymElem) (w : Words) :
    act t g (act t ⟨k, f, 0⟩ w) = act t ⟨composeSpatial k g.k, f ^^ g.f, g.p⟩ w :=
  act_act ht ⟨k, f, 0⟩ g (fun h => by rw [shapePerm_zero]) w

theorem act_act_of_shapes_kept_second (g : SymElem) (k : Fin 8) (f : Bool) (w : Words) :
    act t ⟨k, f, 0⟩ (act t g w) = act t ⟨composeSpatial g.k k, g.f ^^ f, g.p⟩ w :=
  act_act ht g ⟨k, f, 0⟩ (fun h => by rw [shapePerm_zero]) w

theorem exists_act_act (g₁ g₂ : SymElem) : ∃ g, ∀ w, act t g₂ (act t g₁ w) = act t g w := by
  obtain ⟨q, hq⟩ := exists_shapePerm_comp g₁.p g₂.p
  exact ⟨_, act_act ht g₁ g₂ hq⟩

theorem exists_act_inverse (g : SymElem) : ∃ g', ∀ w, act t g' (act t g w) = w := by
  obtain ⟨q, hq⟩ := exists_shapePerm_inverse g.p
  exact ⟨_, act_inverse ht g hq⟩

/-- The states reached from an image are those reached from the state: one orbit (R106). -/
theorem exists_act_act_eq_iff (g : SymElem) (w v : Words) :
    (∃ h, act t h (act t g w) = v) ↔ ∃ h, act t h w = v := by
  constructor
  · rintro ⟨h, rfl⟩
    obtain ⟨gh, hgh⟩ := exists_act_act ht g h
    exact ⟨gh, (hgh w).symm⟩
  · rintro ⟨h, rfl⟩
    obtain ⟨g', hg'⟩ := exists_act_inverse ht g
    obtain ⟨gh, hgh⟩ := exists_act_act ht g' h
    exact ⟨gh, by rw [← hgh, hg']⟩

/-- The image's occupancy is the occupancy's image (R109). -/
theorem occupancy_act (g : SymElem) (w : Words) : (act t g w).occupancy = t.read g.k w.occupancy := by
  rw [ht]
  apply eq_scatter_of_dest
  intro i hi
  have hbit (j : Fin 8) :
      ((act t g w).get (destSlot g.f g.p j)).getLsbD (destSquare g.k i) = (w.get j).getLsbD i := by
    rw [act_get_dest, ht, scatter_getLsbD_dest g.k _ i hi]
  rw [Bool.eq_iff_iff, occupancy_getLsbD, occupancy_getLsbD]
  constructor
  · rintro ⟨j', h⟩
    obtain ⟨j, rfl⟩ := destSlot_surjective g.f g.p j'
    exact ⟨j, (hbit j).symm.trans h⟩
  · rintro ⟨j, h⟩
    exact ⟨destSlot g.f g.p j, (hbit j).trans h⟩

theorem act_zero (g : SymElem) : act t g Words.zero = Words.zero := by
  refine (eq_act_of_dest t g Words.zero Words.zero fun j => ?_).symm
  rw [ht, Words.get_zero, Words.get_zero, scatter_zero]

end BuiltTables

/-- Settles O35 from where the action puts each word. -/
theorem actionMovesWholeLanes : Obligations.ActionMovesWholeLanes := by
  intro s ht hready g w
  refine ⟨fun c h j hj => ?_, act_get_dest s.pt g w, destSlot_unique g.f g.p, valid_act (ht hready) g,
    occupancy_act (ht hready) g w⟩
  have hslot : j = slot (swapColor g.f c) (shapePerm g.p h) := by
    apply Fin.ext
    rw [hj, ← swapColor_val, slot]
  rw [hslot, act_get_slot]

/-- Settles O33: the shape permutations are all permutations, so composition and inversion stay among the elements. -/
theorem elementsActAsAGroup : Obligations.ElementsActAsAGroup := by
  refine ⟨exists_shapePerm_comp, exists_shapePerm_inverse, fun s ht hready => ?_⟩
  exact ⟨fun g₁ g₂ q w hq => act_act (ht hready) g₁ g₂ hq w, act_identity (ht hready),
    fun g q w hq => act_inverse (ht hready) g hq w, exists_act_act_eq_iff (ht hready)⟩

/-- Settles O32: in every order two of the three factors keep the shapes, so the product is computed in the group table
and in the colours. -/
theorem elementPartsCommute : Obligations.ElementPartsCommute := by
  intro s ht hready k f p w
  have hparts := ht hready
  have hid (m : Mask) : s.pt.read 0 m = m := by rw [hparts, scatter_identity]
  simp only [act_act_of_shapes_kept_first hparts, act_act_of_shapes_kept_second hparts, composeSpatial_identity,
    Bool.xor_false, Bool.false_xor, true_and]
  refine ⟨fun c h => ?_, fun hf c h => ?_, fun hf => ?_⟩
  · have hmove := act_get_slot s.pt ⟨0, false, p⟩ w c h
    rwa [swapColor_false, hid] at hmove
  · have hswap : swapColor f c = 1 - c := by rw [hf, swapColor_true]
    have hmove := act_get_slot s.pt ⟨0, f, 0⟩ w c h
    rwa [hswap, shapePerm_zero, hid] at hmove
  · rw [hf, act_identity hparts]

/-! ## Counting squares -/

/-- Inclusion and exclusion along a list. -/
theorem countP_or_add_countP_and {α : Type} (p q : α → Bool) (l : List α) :
    l.countP (fun a => p a || q a) + l.countP (fun a => p a && q a) = l.countP p + l.countP q := by
  induction l with
  | nil => rfl
  | cons a l ih =>
    have hhead : ((if (p a || q a) = true then 1 else 0) + if (p a && q a) = true then 1 else 0)
        = (if p a = true then 1 else 0) + if q a = true then 1 else 0 := by
      cases p a <;> cases q a <;> rfl
    simp only [List.countP_cons]
    omega

theorem popcount_eq_countP (m : Mask) : popcount m = (List.range 16).countP m.getLsbD :=
  List.countP_eq_length_filter.symm

theorem popcount_or_add_popcount_and (a b : Mask) :
    popcount (a ||| b) + popcount (a &&& b) = popcount a + popcount b := by
  have hor : (a ||| b).getLsbD = fun i => a.getLsbD i || b.getLsbD i := funext fun _ => BitVec.getLsbD_or
  have hand : (a &&& b).getLsbD = fun i => a.getLsbD i && b.getLsbD i := funext fun _ => BitVec.getLsbD_and
  simp only [popcount_eq_countP, hor, hand, countP_or_add_countP_and]

theorem popcount_eq_zero_iff (m : Mask) : popcount m = 0 ↔ m = 0#16 := by
  rw [popcount_eq_countP, List.countP_eq_zero]
  constructor
  · intro h
    apply mask_ext
    intro i hi
    rw [BitVec.getLsbD_zero]
    exact Bool.eq_false_iff.mpr (h i (List.mem_range.mpr hi))
  · rintro rfl i -
    rw [BitVec.getLsbD_zero]
    exact Bool.false_ne_true

/-- The union of two masks misses every mask of a list exactly when each of the two does. -/
theorem forall_or_and_eq_zero_iff (a b : Mask) (l : List Mask) :
    (∀ x ∈ l, (a ||| b) &&& x = 0#16) ↔ (∀ x ∈ l, a &&& x = 0#16) ∧ ∀ x ∈ l, b &&& x = 0#16 := by
  simp only [BitVec.and_or_distrib_right, BitVec.or_eq_zero_iff]
  exact ⟨fun h => ⟨fun x hx => (h x hx).1, fun x hx => (h x hx).2⟩, fun h x hx => ⟨h.1 x hx, h.2 x hx⟩⟩

theorem popcount_foldl_or_le (l : List Mask) (acc : Mask) :
    popcount (l.foldl (· ||| ·) acc) ≤ popcount acc + (l.map popcount).sum := by
  induction l generalizing acc with
  | nil => exact Nat.le_refl _
  | cons m l ih =>
    have hl := ih (acc ||| m)
    have hm := popcount_or_add_popcount_and acc m
    rw [List.foldl_cons, List.map_cons, List.sum_cons]
    omega

/-- A union has as many squares as its parts together exactly when no square is counted twice (R107). -/
theorem popcount_foldl_or_eq_iff (l : List Mask) (acc : Mask) :
    popcount (l.foldl (· ||| ·) acc) = popcount acc + (l.map popcount).sum
      ↔ (acc :: l).Pairwise fun a b => a &&& b = 0#16 := by
  induction l generalizing acc with
  | nil => exact iff_of_true rfl (List.pairwise_singleton _ _)
  | cons m l ih =>
    have hl := popcount_foldl_or_le l (acc ||| m)
    have hm := popcount_or_add_popcount_and acc m
    have hsplit : popcount (l.foldl (· ||| ·) (acc ||| m)) = popcount acc + (popcount m + (l.map popcount).sum)
        ↔ popcount (acc &&& m) = 0
          ∧ popcount (l.foldl (· ||| ·) (acc ||| m)) = popcount (acc ||| m) + (l.map popcount).sum := by omega
    rw [List.foldl_cons, List.map_cons, List.sum_cons, hsplit, ih, popcount_eq_zero_iff]
    simp only [List.pairwise_cons, List.forall_mem_cons, forall_or_and_eq_zero_iff, and_assoc]

theorem valid_iff_pairwise (w : Words) : Valid w ↔ w.toList.Pairwise fun a b => a &&& b = 0#16 := by
  rw [toList_eq_ofFn, List.pairwise_iff_getElem]
  constructor
  · intro hv i j hi hj hij
    rw [List.getElem_ofFn, List.getElem_ofFn]
    exact hv _ _ hij
  · intro hp a b hab
    have hlen (j : Fin 8) : j.val < (List.ofFn w.get).length := by
      rw [List.length_ofFn]
      exact j.isLt
    have hdisj := hp a.val b.val (hlen a) (hlen b) hab
    rwa [List.getElem_ofFn, List.getElem_ofFn] at hdisj

/-- Settles O34: folding the eight words into their union loses no square exactly when they are disjoint. -/
theorem validByCountingSquares : Obligations.ValidByCountingSquares := by
  intro w
  have hcount := popcount_foldl_or_eq_iff w.toList 0
  have hempty : ∀ m ∈ w.toList, 0 &&& m = 0#16 := fun m _ => BitVec.zero_and
  rw [(popcount_eq_zero_iff 0).mpr rfl, Nat.zero_add, List.pairwise_cons, and_iff_right hempty] at hcount
  rw [valid_iff_pairwise, Words.occupancy, pieces, hcount]

/-! ## APPLY -/

/-- APPLY of an element to a valid W_IN completes with the element's image (R108). -/
theorem exec_apply_of_valid (k : Fin 8) (f : Bool) (p : Fin 24) {s : State} (hv : Valid s.wIn) :
    exec (.apply k f (p.castLE (by decide))) s
      = .next (complete (writeResult (act s.pt ⟨k, f, p⟩ s.wIn) rawKeyHeader s)) :=
  (ExecOutcome.apply k f _ ⟨k, f, p⟩ (elemOfFields_of_lt k f _ p.isLt) hv).exec_eq

/-- Settles O14: W_OUT is the image, whose words the built table bit-permutes. -/
theorem applyWritesTheImage : Obligations.ApplyWritesTheImage := by
  intro k f p s ht hready hv
  refine ⟨_, exec_apply_of_valid k f p hv, fun c h i hi => ?_, rfl, ?_, fun hw => ?_⟩
  · rw [complete_wOut, writeResult_wOut, act_get_slot s.pt ⟨k, f, p⟩, ht hready, scatter_getLsbD_dest k _ i hi]
  · rintro rfl rfl rfl
    exact act_identity (ht hready) s.wIn
  · rw [complete_wOut, writeResult_wOut, hw, act_zero (ht hready)]

end Sys2Proof.Machine

/-! SUPPORT. Proofs about CANON (42_canonicalize.md): first the comparator order, which compares payloads as 128-bit
numbers; then the least of a family of candidates, which is unique and which every tree of comparators gives; then what
the candidates of a state share with those of its orbit and of other numberings; and last the command. -/

namespace Sys2Proof.Machine

/-! ## The comparator order -/

/-- A byte sequence as an unsigned number, byte 0 the most significant. -/
def bytesNumber : List Byte → Nat
  | [] => 0
  | x :: a => x.toNat * 256 ^ a.length + bytesNumber a

/-- A more significant byte outweighs all that follow it. -/
theorem place_lt_place {x y P m n : Nat} (hxy : x < y) (hm : m < P) : x * P + m < y * P + n := by
  have hstep : (x + 1) * P ≤ y * P := Nat.mul_le_mul_right P hxy
  rw [Nat.succ_mul] at hstep
  omega

theorem bytesNumber_lt (a : List Byte) : bytesNumber a < 256 ^ a.length := by
  induction a with
  | nil => exact Nat.one_pos
  | cons x a ih =>
    have hplace := place_lt_place (n := 0) x.isLt ih
    rwa [Nat.add_zero, Nat.mul_comm (2 ^ 8), ← Nat.pow_succ] at hplace

/-- Each byte's share of the number is its value times its place (R121). -/
theorem sum_places_eq_bytesNumber (a : List Byte) :
    ((List.range a.length).map fun i => (payloadByte a i).toNat * 256 ^ (a.length - 1 - i)).sum = bytesNumber a := by
  induction a with
  | nil => rfl
  | cons x a ih =>
    have hplace (i : Nat) : (x :: a).length - 1 - (i + 1) = a.length - 1 - i := by
      rw [List.length_cons]
      omega
    rw [List.length_cons, List.range_succ_eq_map, List.map_cons, List.sum_cons, List.map_map, bytesNumber, ← ih]
    simp only [Function.comp_def, Nat.succ_eq_add_one, ← List.length_cons (a := x), hplace]
    rfl

theorem payloadNumber_eq {a : List Byte} (ha : a.length = 16) : payloadNumber a = bytesNumber a := by
  rw [← sum_places_eq_bytesNumber, ha, payloadNumber]

/-- Of two sequences of one length, the one the comparator puts first has the smaller number. -/
theorem lexlt_iff_bytesNumber_lt {a b : List Byte} (h : a.length = b.length) :
    lexlt a b = true ↔ bytesNumber a < bytesNumber b := by
  induction a generalizing b with
  | nil =>
    obtain rfl := List.length_eq_zero_iff.mp h.symm
    exact iff_of_false Bool.false_ne_true (Nat.lt_irrefl _)
  | cons x a ih =>
    cases b with
    | nil => exact absurd h (Nat.succ_ne_zero _)
    | cons y b =>
      have hlen : a.length = b.length := Nat.succ.inj h
      rw [lexlt, bytesNumber, bytesNumber, hlen]
      split
      next hxy => rw [ih hlen, hxy, Nat.add_lt_add_iff_left]
      next hxy =>
        have ha : bytesNumber a < 256 ^ b.length := hlen ▸ bytesNumber_lt a
        rw [decide_eq_true_iff, BitVec.lt_def]
        rcases Nat.lt_or_gt_of_ne (fun he => hxy (BitVec.eq_of_toNat_eq he)) with hlt | hgt
        · exact iff_of_true hlt (place_lt_place hlt ha)
        · exact iff_of_false (Nat.lt_asymm hgt) (Nat.lt_asymm (place_lt_place hgt (bytesNumber_lt b)))

/-- Sequences of one length and one number are the same sequence. -/
theorem eq_of_bytesNumber_eq {a b : List Byte} (h : a.length = b.length) (hn : bytesNumber a = bytesNumber b) :
    a = b := by
  induction a generalizing b with
  | nil => exact (List.length_eq_zero_iff.mp h.symm).symm
  | cons x a ih =>
    cases b with
    | nil => exact absurd h (Nat.succ_ne_zero _)
    | cons y b =>
      have hlen : a.length = b.length := Nat.succ.inj h
      have ha : bytesNumber a < 256 ^ b.length := hlen ▸ bytesNumber_lt a
      rw [bytesNumber, bytesNumber, hlen] at hn
      rcases Nat.lt_trichotomy x.toNat y.toNat with hlt | heq | hgt
      · exact absurd hn (Nat.ne_of_lt (place_lt_place hlt ha))
      · rw [heq, Nat.add_left_cancel_iff] at hn
        rw [BitVec.eq_of_toNat_eq heq, ih hlen hn]
      · exact absurd hn (Nat.ne_of_gt (place_lt_place hgt (bytesNumber_lt b)))

/-- The comparator puts first the sequence with the smaller byte at the first place where they differ (R121). -/
theorem lexlt_iff_exists {a b : List Byte} (h : a.length = b.length) :
    lexlt a b = true ↔ ∃ i, i < a.length ∧ payloadByte a i < payloadByte b i
      ∧ ∀ j, j < i → payloadByte a j = payloadByte b j := by
  induction a generalizing b with
  | nil =>
    obtain rfl := List.length_eq_zero_iff.mp h.symm
    exact iff_of_false Bool.false_ne_true fun ⟨i, hi, _⟩ => Nat.not_lt_zero i hi
  | cons x a ih =>
    cases b with
    | nil => exact absurd h (Nat.succ_ne_zero _)
    | cons y b =>
      rw [lexlt]
      split
      next hxy =>
        subst hxy
        rw [ih (Nat.succ.inj h)]
        constructor
        · rintro ⟨i, hi, hlt, heq⟩
          refine ⟨i + 1, Nat.succ_lt_succ hi, hlt, fun j hj => ?_⟩
          cases j with
          | zero => rfl
          | succ j => exact heq j (Nat.lt_of_succ_lt_succ hj)
        · rintro ⟨i, hi, hlt, heq⟩
          cases i with
          | zero => exact absurd hlt (BitVec.lt_irrefl x)
          | succ i => exact ⟨i, Nat.lt_of_succ_lt_succ hi, hlt, fun j hj => heq (j + 1) (Nat.succ_lt_succ hj)⟩
      next hxy =>
        rw [decide_eq_true_iff]
        constructor
        · exact fun hlt => ⟨0, Nat.zero_lt_succ _, hlt, fun j hj => absurd hj (Nat.not_lt_zero j)⟩
        · rintro ⟨i, _, hlt, heq⟩
          cases i with
          | zero => exact hlt
          | succ i => exact absurd (heq 0 (Nat.zero_lt_succ i)) hxy

section Payloads

variable {a b c : List Byte} (ha : a.length = 16) (hb : b.length = 16) (hc : c.length = 16)
include ha hb

theorem lexlt_iff_payloadNumber_lt : lexlt a b = true ↔ payloadNumber a < payloadNumber b := by
  rw [payloadNumber_eq ha, payloadNumber_eq hb, lexlt_iff_bytesNumber_lt (ha.trans hb.symm)]

theorem lexlt_eq_false_iff : lexlt a b = false ↔ payloadNumber b ≤ payloadNumber a := by
  rw [Bool.eq_false_iff, ne_eq, lexlt_iff_payloadNumber_lt ha hb, Nat.not_lt]

theorem eq_of_payloadNumber_eq (h : payloadNumber a = payloadNumber b) : a = b := by
  rw [payloadNumber_eq ha, payloadNumber_eq hb] at h
  exact eq_of_bytesNumber_eq (ha.trans hb.symm) h

theorem lexlt_trichotomy : lexlt a b = true ∨ a = b ∨ lexlt b a = true := by
  rw [lexlt_iff_payloadNumber_lt ha hb, lexlt_iff_payloadNumber_lt hb ha]
  rcases Nat.lt_trichotomy (payloadNumber a) (payloadNumber b) with hlt | heq | hgt
  · exact .inl hlt
  · exact .inr (.inl (eq_of_payloadNumber_eq ha hb heq))
  · exact .inr (.inr hgt)

/-- A node's output has the smaller of the two numbers (R122). -/
theorem payloadNumber_min2 : payloadNumber (min2 a b) = min (payloadNumber a) (payloadNumber b) := by
  rw [min2]
  split
  next h => exact (Nat.min_eq_right (Nat.le_of_lt ((lexlt_iff_payloadNumber_lt hb ha).mp h))).symm
  next h => exact (Nat.min_eq_left ((lexlt_eq_false_iff hb ha).mp (Bool.eq_false_iff.mpr h))).symm

theorem length_min2 : (min2 a b).length = 16 := by
  rcases min2_eq_or a b with h | h <;> rw [h] <;> assumption

theorem min2_comm : min2 a b = min2 b a := by
  apply eq_of_payloadNumber_eq (length_min2 ha hb) (length_min2 hb ha)
  rw [payloadNumber_min2 ha hb, payloadNumber_min2 hb ha, Nat.min_comm]

include hc

theorem lexlt_trans (hab : lexlt a b = true) (hbc : lexlt b c = true) : lexlt a c = true := by
  rw [lexlt_iff_payloadNumber_lt ha hb] at hab
  rw [lexlt_iff_payloadNumber_lt hb hc] at hbc
  rw [lexlt_iff_payloadNumber_lt ha hc]
  exact Nat.lt_trans hab hbc

theorem min2_assoc : min2 (min2 a b) c = min2 a (min2 b c) := by
  have hab := length_min2 ha hb
  have hbc := length_min2 hb hc
  apply eq_of_payloadNumber_eq (length_min2 hab hc) (length_min2 ha hbc)
  rw [payloadNumber_min2 hab hc, payloadNumber_min2 ha hb, payloadNumber_min2 ha hbc, payloadNumber_min2 hb hc,
    Nat.min_assoc]

end Payloads

/-- Settles O23: the order is that of the 128-bit numbers; byte 0 decides the example. -/
theorem byteOrderIsStrictTotal : Obligations.ByteOrderIsStrictTotal := by
  refine ⟨fun a b ha hb => ⟨?_, lexlt_iff_payloadNumber_lt ha hb, lexlt_irrefl a, lexlt_trichotomy ha hb⟩,
    fun a b c ha hb hc => lexlt_trans ha hb hc, fun w u hw hu => ?_⟩
  · rw [lexlt_iff_exists (ha.trans hb.symm), ha]
  · have hfirst (v : Words) : payloadByte (ser v) 0 = (v.get 0).extractLsb' 0 8 := (payloadByte_ser v 0).1
    refine (lexlt_iff_exists (a := ser w) (b := ser u) rfl).mpr
      ⟨0, Nat.zero_lt_succ 15, ?_, fun j hj => absurd hj (Nat.not_lt_zero j)⟩
    rw [hfirst, hfirst, hw, hu]
    decide

/-! ## The least candidate -/

theorem cand_length (t : Memory) (w : Words) (g : SymElem) : (cand t w g).length = 16 := ser_length _

/-- The least of a family of payloads is the member whose number is the smallest. -/
theorem leastOf_iff {c : List Byte} {cands : SymElem → List Byte} (hlen : ∀ g, (cands g).length = 16) :
    LeastOf c cands ↔ (∃ g, cands g = c) ∧ ∀ g, payloadNumber c ≤ payloadNumber (cands g) := by
  refine and_congr_right fun ⟨g₀, hg₀⟩ => forall_congr' fun g => ?_
  exact lexlt_eq_false_iff (hlen g) (hg₀ ▸ hlen g₀)

theorem LeastOf.unique {c c' : List Byte} {cands : SymElem → List Byte} (hlen : ∀ g, (cands g).length = 16)
    (h : LeastOf c cands) (h' : LeastOf c' cands) : c = c' := by
  obtain ⟨⟨g, rfl⟩, hle⟩ := (leastOf_iff hlen).mp h
  obtain ⟨⟨g', rfl⟩, hle'⟩ := (leastOf_iff hlen).mp h'
  exact eq_of_payloadNumber_eq (hlen g) (hlen g') (Nat.le_antisymm (hle g') (hle' g))

/-- Families with the same members have the same least member. -/
theorem LeastOf.of_same_members {c : List Byte} {cands cands' : SymElem → List Byte} (h : LeastOf c cands)
    (hto : ∀ g, ∃ g', cands' g' = cands g) (hfrom : ∀ g', ∃ g, cands g = cands' g') : LeastOf c cands' := by
  obtain ⟨⟨g₀, rfl⟩, hbelow⟩ := h
  refine ⟨hto g₀, fun g' => ?_⟩
  obtain ⟨g, hg⟩ := hfrom g'
  rw [← hg]
  exact hbelow g

/-- No candidate that goes into a reduction has a smaller number than what comes out. -/
theorem payloadNumber_reduce_le {first : List Byte} {rest : List (List Byte)}
    (hlen : ∀ c ∈ first :: rest, c.length = 16) :
    ∀ c ∈ first :: rest, payloadNumber (reduce first rest) ≤ payloadNumber c := by
  induction rest generalizing first with
  | nil =>
    intro c hc
    obtain rfl := List.mem_singleton.mp hc
    exact Nat.le_refl _
  | cons b rest ih =>
    obtain ⟨hfirst, hb, hrest⟩ : first.length = 16 ∧ b.length = 16 ∧ ∀ c ∈ rest, c.length = 16 := by
      simpa only [List.forall_mem_cons] using hlen
    obtain ⟨hmin, hle⟩ := List.forall_mem_cons.mp
      (ih (first := min2 first b) (List.forall_mem_cons.mpr ⟨length_min2 hfirst hb, hrest⟩))
    rw [payloadNumber_min2 hfirst hb, Nat.le_min] at hmin
    exact List.forall_mem_cons.mpr ⟨hmin.1, List.forall_mem_cons.mpr ⟨hmin.2, hle⟩⟩

/-- CANON's payload is the least of the 384 candidates (R123). -/
theorem leastOf_canonPayload (t : Memory) (w : Words) : LeastOf (canonPayload t w) (cand t w) := by
  have hall : cand t w ⟨0, false, 0⟩ :: (elements.drop 1).map (cand t w) = elements.map (cand t w) :=
    (congrArg (List.map (cand t w)) elements_cons).symm
  refine (leastOf_iff (cand_length t w)).mpr ⟨?_, fun g => ?_⟩
  · obtain ⟨g, hg⟩ := canonPayload_mem t w
    exact ⟨g, hg.symm⟩
  · apply payloadNumber_reduce_le
    · rw [hall]
      exact List.forall_mem_map.mpr fun g _ => cand_length t w g
    · rw [hall]
      exact List.mem_map_of_mem (mem_elements g)

theorem eq_canonPayload_of_leastOf {t : Memory} {w : Words} {c : List Byte} (h : LeastOf c (cand t w)) :
    c = canonPayload t w :=
  h.unique (cand_length t w) (leastOf_canonPayload t w)

/-! ## Comparator trees -/

theorem CmpTree.eval_mem (t : Memory) (w : Words) (tree : CmpTree) :
    ∃ n ∈ tree.leaves, cand t w (elemOfIdx n) = tree.eval t w := by
  induction tree with
  | leaf n => exact ⟨n, List.mem_singleton_self n, rfl⟩
  | node l r ihl ihr =>
    obtain ⟨n, hn, hl⟩ := ihl
    obtain ⟨m, hm, hr⟩ := ihr
    rw [CmpTree.eval, CmpTree.leaves]
    rcases min2_eq_or (l.eval t w) (r.eval t w) with h | h
    · exact ⟨n, List.mem_append_left _ hn, hl.trans h.symm⟩
    · exact ⟨m, List.mem_append_right _ hm, hr.trans h.symm⟩

theorem CmpTree.length_eval (t : Memory) (w : Words) (tree : CmpTree) : (tree.eval t w).length = 16 := by
  obtain ⟨n, _, hn⟩ := tree.eval_mem t w
  rw [← hn, cand_length]

theorem CmpTree.payloadNumber_eval_le (t : Memory) (w : Words) (tree : CmpTree) :
    ∀ n ∈ tree.leaves, payloadNumber (tree.eval t w) ≤ payloadNumber (cand t w (elemOfIdx n)) := by
  induction tree with
  | leaf m =>
    intro n hn
    obtain rfl := List.mem_singleton.mp hn
    exact Nat.le_refl _
  | node l r ihl ihr =>
    intro n hn
    rw [CmpTree.eval, payloadNumber_min2 (l.length_eval t w) (r.length_eval t w)]
    rcases List.mem_append.mp hn with hn | hn
    · exact Nat.le_trans (Nat.min_le_left _ _) (ihl n hn)
    · exact Nat.le_trans (Nat.min_le_right _ _) (ihr n hn)

/-- A tree with a leaf for every element gives the least candidate (R123). -/
theorem CmpTree.eval_eq_canonPayload (t : Memory) (w : Words) {tree : CmpTree} (h : ∀ n < 384, n ∈ tree.leaves) :
    tree.eval t w = canonPayload t w := by
  refine eq_canonPayload_of_leastOf ((leastOf_iff (cand_length t w)).mpr ⟨?_, fun g => ?_⟩)
  · obtain ⟨n, _, hn⟩ := tree.eval_mem t w
    exact ⟨elemOfIdx n, hn⟩
  · obtain ⟨n, hn, rfl⟩ := exists_elemOfIdx g
    exact tree.payloadNumber_eval_le t w n (h n hn)

/-- Settles O24: a node's number is the smaller one, so a tree's is the smallest, and the number fixes the payload. -/
theorem everyComparatorTreeGivesThePayload : Obligations.EveryComparatorTreeGivesThePayload :=
  ⟨fun a _ _ ha hb hc => ⟨min2_assoc ha hb hc, min2_comm ha hb, min2_self a⟩,
    fun t w => ⟨leastOf_canonPayload t w, fun _ => eq_canonPayload_of_leastOf,
      fun _ htree => CmpTree.eval_eq_canonPayload t w fun n hn => (htree n).mpr hn⟩⟩

/-- A tree of two-input nodes has one node fewer than leaves. -/
theorem CmpTree.nodes_add_one (tree : CmpTree) : tree.nodes + 1 = tree.leaves.length := by
  induction tree with
  | leaf n => rfl
  | node l r ihl ihr =>
    rw [CmpTree.nodes, CmpTree.leaves, List.length_append, ← ihl, ← ihr]
    omega

/-- Halving keeps the leaves in order (R124). -/
theorem CmpTree.leaves_balanced (fuel lo : Nat) {n : Nat} (hpos : 0 < n) (hn : n ≤ 2 ^ fuel) :
    (CmpTree.balanced fuel lo n).leaves = List.range' lo n := by
  induction fuel generalizing lo n with
  | zero =>
    obtain rfl : n = 1 := Nat.le_antisymm hn hpos
    rfl
  | succ fuel ih =>
    rw [CmpTree.balanced]
    split
    next hle =>
      obtain rfl : n = 1 := Nat.le_antisymm hle hpos
      rfl
    next hgt =>
      rw [Nat.pow_succ] at hn
      rw [CmpTree.leaves, ih lo (by omega) (by omega), ih _ (by omega) (by omega), List.range'_append_1]
      congr 1
      omega

/-- Each level doubles the number of leaves there is room for (R124). -/
theorem CmpTree.levels_balanced_le (fuel lo : Nat) {n d : Nat} (hn : n ≤ 2 ^ d) :
    (CmpTree.balanced fuel lo n).levels ≤ d := by
  induction fuel generalizing lo n d with
  | zero => exact Nat.zero_le d
  | succ fuel ih =>
    rw [CmpTree.balanced]
    split
    next => exact Nat.zero_le d
    next hgt =>
      cases d with
      | zero => exact absurd hn hgt
      | succ d =>
        rw [Nat.pow_succ] at hn
        exact Nat.succ_le_succ (Nat.max_le.mpr ⟨ih lo (by omega), ih _ (by omega)⟩)

/-- Halving more than half of 2^d leaves cannot end before level d: the larger half goes first (R124). -/
theorem CmpTree.le_levels_balanced (fuel lo : Nat) {n d : Nat} (hd : d ≤ fuel) (hn : 2 ^ d < 2 * n) :
    d ≤ (CmpTree.balanced fuel lo n).levels := by
  induction fuel generalizing lo n d with
  | zero => exact hd
  | succ fuel ih =>
    cases d with
    | zero => exact Nat.zero_le _
    | succ d =>
      have hroom : 0 < 2 ^ d := Nat.two_pow_pos d
      rw [Nat.pow_succ] at hn
      rw [CmpTree.balanced, if_neg (by omega)]
      exact Nat.succ_le_succ (Nat.le_trans (ih lo (Nat.le_of_succ_le_succ hd) (by omega)) (Nat.le_max_left _ _))

/-- Settles O25: halving keeps the 384 leaves in order, and 256 < 384 ≤ 512 fixes the levels. -/
theorem balancedTreeGivesThePayload : Obligations.BalancedTreeGivesThePayload := by
  have hleaves : (CmpTree.balanced 9 0 384).leaves = List.range 384 := by
    rw [CmpTree.leaves_balanced 9 0 (by decide) (by decide), List.range_eq_range']
  refine ⟨hleaves, ?_, ?_, fun t w => CmpTree.eval_eq_canonPayload t w fun n hn => ?_⟩
  · have hnodes := (CmpTree.balanced 9 0 384).nodes_add_one
    rw [hleaves, List.length_range] at hnodes
    exact Nat.succ.inj hnodes
  · exact Nat.le_antisymm (CmpTree.levels_balanced_le 9 0 (by decide))
      (CmpTree.le_levels_balanced 9 0 (Nat.le_refl 9) (by decide))
  · rw [hleaves]
    exact List.mem_range.mpr hn

/-! ## The canonical payload -/

/-- Stores that read alike have the same canonical payload (R126). -/
theorem canonPayload_congr {t u : Memory} (h : ∀ k m, t.read k m = u.read k m) (w : Words) :
    canonPayload t w = canonPayload u w := by
  have hcand : cand t w = cand u w := funext fun g => by rw [cand, cand, act_congr t u g w h]
  rw [canonPayload, canonPayload, hcand]

theorem canonPayload_length (t : Memory) (w : Words) : (canonPayload t w).length = 16 := by
  obtain ⟨g, hg⟩ := canonPayload_mem t w
  rw [hg, cand_length]

theorem ser_words_canonPayload (t : Memory) (w : Words) : ser (words (canonPayload t w)) = canonPayload t w :=
  ser_words (canonPayload_length t w)

/-- An element moves the words to the eight slots in some order (R104). -/
theorem map_destSlot_perm (f : Bool) (p : Fin 24) : (slots.map (destSlot f p)).Perm slots := by
  revert f p; decide +kernel

theorem toList_eq_map_slots (w : Words) : w.toList = slots.map w.get := rfl

section BuiltTables

variable {t : Memory} (ht : ∀ k m, t.read k m = scatter k m)
include ht

/-- An image has the candidates of the state, and so the state's payload (R128). -/
theorem canonPayload_act (g : SymElem) (w : Words) : canonPayload t (act t g w) = canonPayload t w := by
  have horbit (v : Words) := exists_act_act_eq_iff ht g w v
  apply eq_canonPayload_of_leastOf
  apply (leastOf_canonPayload t (act t g w)).of_same_members
  · intro h
    obtain ⟨h', hh'⟩ := (horbit _).mp ⟨h, rfl⟩
    exact ⟨h', congrArg ser hh'⟩
  · intro h'
    obtain ⟨h, hh⟩ := (horbit _).mpr ⟨h', rfl⟩
    exact ⟨h, congrArg ser hh⟩

theorem valid_words_canonPayload {w : Words} (hv : Valid w) : Valid (words (canonPayload t w)) := by
  obtain ⟨g, hg⟩ := words_canonPayload t w
  rw [hg]
  exact valid_act ht g hv

theorem canonPayload_idempotent (w : Words) : canonPayload t (words (canonPayload t w)) = canonPayload t w := by
  obtain ⟨g, hg⟩ := words_canonPayload t w
  rw [hg, canonPayload_act ht]

/-- The action moves the eight counts to other slots (R130). -/
theorem map_popcount_act_perm (g : SymElem) (w : Words) :
    ((act t g w).toList.map popcount).Perm (w.toList.map popcount) := by
  have hcount (j : Fin 8) : popcount ((act t g w).get (destSlot g.f g.p j)) = popcount (w.get j) := by
    rw [act_get_dest, ht, popcount_scatter]
  have hperm := (map_destSlot_perm g.f g.p).symm.map fun j => popcount ((act t g w).get j)
  simp only [List.map_map, Function.comp_def, hcount] at hperm
  rw [toList_eq_map_slots, toList_eq_map_slots, List.map_map, List.map_map]
  exact hperm

end BuiltTables

/-- Settles O28: the canonical state is the image under an element that reaches the minimum. -/
theorem canonKeepsPiecesAndOccupancy : Obligations.CanonKeepsPiecesAndOccupancy := by
  intro s ht hready w _
  obtain ⟨g, hg⟩ := canonPayload_mem s.pt w
  have hwords : words (canonPayload s.pt w) = act s.pt g w := by rw [hg, cand, words_ser]
  have hperm := map_popcount_act_perm (ht hready) g w
  rw [hwords]
  exact ⟨hperm.sum_nat, hperm, g, hg.symm, occupancy_act (ht hready) g w⟩

/-! ## Other numberings -/

theorem invSpatial_invSpatial (k : Fin 8) : invSpatial (invSpatial k) = k := by
  revert k; decide

theorem eq_act_of_slot {t : Memory} {g : SymElem} {w w' : Words}
    (h : ∀ c s, w'.get (slot (swapColor g.f c) (shapePerm g.p s)) = t.read g.k (w.get (slot c s))) :
    w' = act t g w := by
  apply eq_act_of_dest
  intro j
  rw [← slot_color_shape j, destSlot_slot, h]

/-- States that are all images of a state, with every image among them, have its payload as the least (R131). -/
theorem leastOf_canonPayload_of_images {t : Memory} {w : Words} {img : SymElem → Words}
    (himg : ∀ g, ∃ g', img g = act t g' w) (hall : ∀ g', ∃ g, img g = act t g' w) :
    LeastOf (canonPayload t w) fun g => ser (img g) := by
  apply (leastOf_canonPayload t w).of_same_members
  · intro g'
    obtain ⟨g, h⟩ := hall g'
    exact ⟨g, congrArg ser h⟩
  · intro g
    obtain ⟨g', h⟩ := himg g
    exact ⟨g', congrArg ser h.symm⟩

/-- Moving each square's piece back along P_k is acting with the inverse transform (R131). -/
theorem eq_act_of_inverse_squares {t : Memory} (ht : ∀ k m, t.read k m = scatter k m) {g : SymElem} {w w' : Words}
    (h : ∀ (c : Fin 2) (s : Fin 4) (i : Nat), i < 16 →
      (w'.get (slot (swapColor g.f c) (shapePerm g.p s))).getLsbD i = (w.get (slot c s)).getLsbD (destSquare g.k i)) :
    w' = act t ⟨invSpatial g.k, g.f, g.p⟩ w := by
  refine eq_act_of_slot fun c s => ?_
  rw [ht]
  apply eq_scatter_of_dest
  intro i hi
  rw [h c s _ (destSquare_lt _ i hi), destSquare_inv' g.k i hi]

/-- Renaming shapes in the other direction is renaming by the inverse permutation (R131). -/
theorem eq_act_of_inverse_shapes {t : Memory} {g : SymElem} {w w' : Words} {q : Fin 24}
    (hq : ∀ s, shapePerm g.p (shapePerm q s) = s)
    (h : ∀ c s, w'.get (slot (swapColor g.f c) s) = t.read g.k (w.get (slot c (shapePerm g.p s)))) :
    w' = act t ⟨g.k, g.f, q⟩ w :=
  eq_act_of_slot fun c s => by rw [h, hq]

/-- A permutation of the shapes is also undone by its inverse from the right. -/
theorem exists_shapePerm_right_inverse (p : Fin 24) : ∃ q, ∀ s, shapePerm p (shapePerm q s) = s := by
  obtain ⟨q, hq⟩ := exists_shapePerm_inverse p
  exact ⟨q, fun s => shapePerm_injective q _ _ (hq (shapePerm q s))⟩

/-- Settles O29: each of the four changes leaves the images as they are and only names their elements otherwise. -/
theorem canonIgnoresNumberingConventions : Obligations.CanonIgnoresNumberingConventions := by
  intro s ht hready w
  refine ⟨fun σ hσ => ?_, fun τ hτ => ?_, fun img h => ?_, fun img h => ?_⟩
  · refine leastOf_canonPayload_of_images (fun g => ⟨⟨σ g.k, g.f, g.p⟩, rfl⟩) fun ⟨k', f, p⟩ => ?_
    obtain ⟨k, rfl⟩ := hσ k'
    exact ⟨⟨k, f, p⟩, rfl⟩
  · refine leastOf_canonPayload_of_images (fun g => ⟨⟨g.k, g.f, τ g.p⟩, rfl⟩) fun ⟨k, f, p'⟩ => ?_
    obtain ⟨p, rfl⟩ := hτ p'
    exact ⟨⟨k, f, p⟩, rfl⟩
  · have himg (g : SymElem) := eq_act_of_inverse_squares (ht hready) (h g)
    refine leastOf_canonPayload_of_images (fun g => ⟨_, himg g⟩) fun ⟨k, f, p⟩ => ⟨⟨invSpatial k, f, p⟩, ?_⟩
    rw [himg, invSpatial_invSpatial]
  · have himg (g : SymElem) {q : Fin 24} (hq : ∀ s, shapePerm g.p (shapePerm q s) = s) :=
      eq_act_of_inverse_shapes hq (h g)
    refine leastOf_canonPayload_of_images (fun g => ?_) fun ⟨k, f, q⟩ => ?_
    · obtain ⟨q, hq⟩ := exists_shapePerm_right_inverse g.p
      exact ⟨_, himg g hq⟩
    · obtain ⟨p, hp⟩ := exists_shapePerm_inverse q
      exact ⟨⟨k, f, p⟩, himg ⟨k, f, p⟩ hp⟩

/-! ## CANON -/

/-- The state a successful CANON leaves (R126). -/
def canonResult (s : State) : State :=
  complete (writeResult (words (canonPayload s.pt s.wIn)) (canonKeyHeader s.params) s)

theorem exec_canon_of_valid {s : State} (hv : Valid s.wIn) : exec .canon s = .next (canonResult s) :=
  (ExecOutcome.canon hv).exec_eq

theorem eq_canonResult {s t : State} (hv : Valid s.wIn) (h : exec .canon s = .next t) : t = canonResult s := by
  rw [exec_canon_of_valid hv] at h
  exact (Host.Outcome.next.inj h).symm

@[simp] theorem canonResult_wOut (s : State) : (canonResult s).wOut = words (canonPayload s.pt s.wIn) := rfl
@[simp] theorem canonResult_keyhdr (s : State) : (canonResult s).keyhdr = canonKeyHeader s.params := rfl
@[simp] theorem canonResult_pt (s : State) : (canonResult s).pt = s.pt := rfl
@[simp] theorem canonResult_err (s : State) : (canonResult s).status.err = s.status.err := rfl

/-- CANON's key header holds KEY_VERSION and CANON_FLAG_MASK in its two bytes (R127). -/
theorem canonKeyHeader_bytes (p : Config.Params) :
    (canonKeyHeader p).extractLsb' 0 8 = 0x01#8 ∧ (canonKeyHeader p).extractLsb' 8 8 = p.canonFlag.mask := by
  obtain ⟨_ | _⟩ := p
  · exact ⟨rfl, rfl⟩
  · exact ⟨rfl, rfl⟩

theorem canonKeyHeader_toNat (p : Config.Params) :
    (canonKeyHeader p).toNat = 1 + 256 * p.canonFlag.mask.toNat := by
  obtain ⟨hlow, hhigh⟩ := canonKeyHeader_bytes p
  rw [mask_toNat_bytes, hlow, hhigh]
  rfl

/-- Settles O15: the payload is the least candidate, and the result's frame is read off. -/
theorem canonWritesTheLeastCandidate : Obligations.CanonWritesTheLeastCandidate := by
  intro s hv
  obtain ⟨⟨g, hg⟩, hbelow⟩ := leastOf_canonPayload s.pt s.wIn
  refine ⟨canonResult s, exec_canon_of_valid hv, ⟨g, ?_⟩, ?_, canonKeyHeader_toNat s.params, rfl⟩
  · rw [canonResult_wOut, ser_words_canonPayload, hg]
  · rwa [canonResult_wOut, ser_words_canonPayload]

/-- APPLY of a term with S below 24 to a valid W_IN writes an element's image and the raw key header (R108). -/
theorem exec_apply_result {k : Fin 8} {f : Bool} {p : Fin 32} {s t : State} (hv : Valid s.wIn) (hp : p.val ≤ 23)
    (h : exec (.apply k f p) s = .next t) : ∃ g, t = complete (writeResult (act s.pt g s.wIn) rawKeyHeader s) := by
  have hx := exec_apply_of_valid k f ⟨p.val, Nat.lt_succ_of_le hp⟩ hv
  exact ⟨_, Host.Outcome.next.inj (h.symm.trans hx)⟩

/-- Settles O16: the key's first two bytes are those of the header each command writes. -/
theorem keyHeadersAfterResults : Obligations.KeyHeadersAfterResults := by
  refine ⟨fun s t hv h => ?_, fun k f p s t hv hp h => ?_, rfl, rfl⟩
  · obtain rfl := eq_canonResult hv h
    obtain ⟨hversion, hflags⟩ := canonKeyHeader_bytes s.params
    refine ⟨?_, rfl, hversion, hflags⟩
    rw [keyBytes, canonResult_keyhdr, hversion, hflags]
  · obtain ⟨g, rfl⟩ := exec_apply_result hv hp h
    rfl

/-- Settles O21: built tables read alike, so the payloads agree. -/
theorem canonDependsOnInputAlone : Obligations.CanonDependsOnInputAlone := by
  intro s u t v hs hu hsready huready hwIn hparams hv ht hv'
  obtain rfl := eq_canonResult hv ht
  obtain rfl := eq_canonResult (hwIn ▸ hv) hv'
  have hreads : ∀ k m, s.pt.read k m = u.pt.read k m := fun k m => by rw [hs hsready, hu huready]
  rw [canonResult_wOut, canonResult_wOut, canonResult_keyhdr, canonResult_keyhdr, canonPayload_congr hreads, hwIn,
    hparams]
  exact ⟨rfl, rfl⟩

/-- Settles O26: a state and its image have the same candidates, and APPLY's W_OUT is an image. -/
theorem canonIsOrbitInvariant : Obligations.CanonIsOrbitInvariant := by
  refine ⟨fun s ht hready g w _ => canonPayload_act (ht hready) g w, ?_⟩
  intro s t u v k f p hs hready hv hp ht hu hv'
  obtain ⟨g, rfl⟩ := exec_apply_result hv hp ht
  obtain rfl := eq_canonResult hv hu
  obtain rfl := eq_canonResult (valid_act (hs hready) g hv) hv'
  exact congrArg words (canonPayload_act (hs hready) g s.wIn)

/-- Settles O27: the canonical state is an image of the state, so it has the same candidates. -/
theorem canonIsMinimalAndIdempotent : Obligations.CanonIsMinimalAndIdempotent := by
  constructor
  · intro s ht hready w hv
    obtain ⟨_, hbelow⟩ := leastOf_canonPayload s.pt w
    exact ⟨hbelow, valid_words_canonPayload (ht hready) hv, words_canonPayload s.pt w,
      canonPayload_idempotent (ht hready) w⟩
  · intro s t u hs hready hv ht hu
    obtain rfl := eq_canonResult hv ht
    obtain rfl := eq_canonResult (valid_words_canonPayload (hs hready) hv) hu
    exact ⟨congrArg words (canonPayload_idempotent (hs hready) s.wIn), canonResult_err _⟩

end Sys2Proof.Machine

/-! SUPPORT. Proofs about the command errors and the dropped writes (60_exceptions.md): first when two words overlap and
which words the decoder rejects, then the Engine's turn, which reports the errors and neither reads nor writes OVERRUN,
and last the writes the window drops. -/

namespace Sys2Proof.Machine

/-! ## INVALID_STATE -/

/-- Two masks meet exactly in the squares that both hold (R107). -/
theorem and_ne_zero_iff_common_square (a b : Mask) :
    a &&& b ≠ 0#16 ↔ ∃ i, i < 16 ∧ a.getLsbD i = true ∧ b.getLsbD i = true := by
  constructor
  · intro hne
    apply Classical.byContradiction
    intro hnone
    apply hne
    apply mask_ext
    intro i hi
    rw [BitVec.getLsbD_and, BitVec.getLsbD_zero, Bool.and_eq_false_imp]
    exact fun ha => Bool.eq_false_iff.mpr fun hb => hnone ⟨i, hi, ha, hb⟩
  · rintro ⟨i, -, ha, hb⟩ hzero
    have hbit : (a &&& b).getLsbD i = true := by rw [BitVec.getLsbD_and, ha, hb]; rfl
    rw [hzero, BitVec.getLsbD_zero] at hbit
    cases hbit

theorem not_valid_iff (w : Words) : ¬ Valid w ↔ ∃ a b : Fin 8, a < b ∧ w.get a &&& w.get b ≠ 0#16 := by
  simp only [Classical.not_forall, exists_prop, ne_eq]

/-- Settles O17: not disjoint means a common square, and the invalid outcomes of APPLY and CANON raise the error, which
no outcome of NOP and PERM does. -/
theorem overlappingInputIsReported : Obligations.OverlappingInputIsReported := by
  refine ⟨fun w => ?_, fun s hv => ⟨fun k f p hp => ?_, ?_⟩, fun s t k h => ?_⟩
  · simp only [not_valid_iff, and_ne_zero_iff_common_square]
  · exact (ExecOutcome.applyInvalid k f p (Nat.lt_succ_of_le hp) hv).exec_eq
  · exact (ExecOutcome.canonInvalid hv).exec_eq
  · obtain h | h := h
    · cases exec_outcome .nop s t h
      exact ⟨rfl, rfl⟩
    · cases exec_outcome (.perm k) s t h
      exact ⟨rfl, rfl⟩

/-! ## ILLEGAL_CMD -/

/-- The legal words by number: OP names the command, no higher bit than its fields' is set, and S selects a permutation
(R66, R67). -/
theorem exists_decode_eq_ok_iff (v : Word) :
    (∃ i, decode v = .ok i) ↔
      (v.toNat % 16 = 0 ∨ v.toNat % 16 = 3) ∧ v.toNat < 16 ∨ v.toNat % 16 = 1 ∧ v.toNat < 128
        ∨ v.toNat % 16 = 2 ∧ v.toNat < 8192 ∧ v.toNat / 256 % 32 ≤ 23 := by
  simp only [decode_eq_ok_iff_hasFields, ← fieldOp_eq, ← fieldS_val]
  constructor
  · rintro ⟨i, h⟩
    cases i with
    | nop =>
      obtain ⟨hop, hhigh⟩ := h
      exact .inl ⟨.inl hop, (extractLsb'_high_eq_zero_iff v rfl).mp hhigh⟩
    | perm k =>
      obtain ⟨hop, hhigh, -⟩ := h
      exact .inr (.inl ⟨hop, (extractLsb'_high_eq_zero_iff v rfl).mp hhigh⟩)
    | apply k f p =>
      obtain ⟨hop, hhigh, -, -, rfl, hs⟩ := h
      exact .inr (.inr ⟨hop, (extractLsb'_high_eq_zero_iff v rfl).mp hhigh, hs⟩)
    | canon =>
      obtain ⟨hop, hhigh⟩ := h
      exact .inl ⟨.inr hop, (extractLsb'_high_eq_zero_iff v rfl).mp hhigh⟩
  · rintro (⟨hop | hop, hlt⟩ | ⟨hop, hlt⟩ | ⟨hop, hlt, hs⟩)
    · exact ⟨.nop, hop, (extractLsb'_high_eq_zero_iff v rfl).mpr hlt⟩
    · exact ⟨.canon, hop, (extractLsb'_high_eq_zero_iff v rfl).mpr hlt⟩
    · exact ⟨.perm (fieldT v), hop, (extractLsb'_high_eq_zero_iff v rfl).mpr hlt, rfl⟩
    · exact ⟨.apply (fieldT v) (fieldX v) (fieldS v), hop, (extractLsb'_high_eq_zero_iff v rfl).mpr hlt,
        rfl, rfl, rfl, hs⟩

/-- Every word is either a legal command or rejected by name (R68). -/
theorem exists_decode_eq_error_iff (v : Word) : (∃ e, decode v = .error e) ↔ ¬ ∃ i, decode v = .ok i := by
  constructor
  · rintro ⟨e, he⟩ ⟨i, hi⟩
    cases he.symm.trans hi
  · intro h
    exact decode_error_of_ne_ok (not_exists.mp h)

/-- Every outcome listed for the Engine is its turn's answer: the converse of `agentStep_outcome`. -/
theorem AgentOutcome.engine_eq {s t : State} (h : AgentOutcome s .engine t) : agentStep .engine s = .next t := by
  cases h with
  | command i _ he hd hx =>
    rw [agentStep, if_pos he, engineStep, hd]
    exact hx.exec_eq
  | illegal e he hd => rw [agentStep, if_pos he, engineStep, hd]
  | waiting he => rw [agentStep, if_neg (Bool.eq_false_iff.mp he)]

/-- The Engine's turn on a word the decoder rejects raises ILLEGAL_CMD (R141). -/
theorem engine_raises_illegalCmd {s : State} {e : DecodeError} (hbusy : s.status.busy = true)
    (hready : s.status.ready = true) (hd : decode s.cmd = .error e) :
    agentStep .engine s = .next (raiseError .illegalCmd s) :=
  (AgentOutcome.illegal e ((engineEnabled_iff s).mpr ⟨hbusy, hready⟩) hd).engine_eq

/-- Settles O18: the rejected words are those that are not legal by number, and the Engine reports them. -/
theorem illegalWordIsReported : Obligations.IllegalWordIsReported := by
  refine ⟨fun v => ?_, fun s e => engine_raises_illegalCmd⟩
  rw [exists_decode_eq_error_iff, exists_decode_eq_ok_iff]
  omega

/-! ## OVERRUN and the two errors -/

/-- No command reads OVERRUN (R144). -/
theorem ExecOutcome.dropWrite {s t : State} {i : Instr} (h : ExecOutcome s i t) :
    ExecOutcome (dropWrite s) i (dropWrite t) := by
  cases h with
  | nop => exact .nop
  | perm k => exact .perm k
  | apply k f p g hg hv => exact .apply k f p g hg hv
  | applyIllegal k f p hp => exact .applyIllegal k f p hp
  | applyInvalid k f p hp hv => exact .applyInvalid k f p hp hv
  | canon hv => exact .canon hv
  | canonInvalid hv => exact .canonInvalid hv

/-- A dropped write does not show in the Engine's turn, but for OVERRUN itself (R143, R144). -/
theorem AgentOutcome.dropWrite {s t : State} (h : AgentOutcome s .engine t) :
    AgentOutcome (dropWrite s) .engine (dropWrite t) := by
  cases h with
  | command i _ he hd hx => exact .command i _ he hd hx.dropWrite
  | illegal e he hd => exact .illegal e he hd
  | waiting he => exact .waiting he

/-- The Engine's turn leaves OVERRUN (R144). -/
theorem AgentOutcome.overrun_of_engine {s t : State} (h : AgentOutcome s .engine t) :
    t.status.overrun = s.status.overrun := by
  cases h with
  | command i _ he hd hx =>
    obtain ⟨-, hoverrun, -, -⟩ := hx.completed
    exact hoverrun
  | illegal | waiting => rfl

theorem engine_next (s : State) : ∃ t, agentStep .engine s = .next t := by
  rw [agentStep]
  split
  · exact engineStep_next s
  · exact ⟨s, rfl⟩

/-- Settles O19: the decoder and field S are looked at before W_IN, and OVERRUN by no outcome of the Engine's turn. -/
theorem illegalWordWinsOverInvalidState : Obligations.IllegalWordWinsOverInvalidState := by
  refine ⟨fun s e hbusy hready hd _ => ?_, fun k f p s hp _ => ?_, fun s => ?_⟩
  · exact ⟨_, engine_raises_illegalCmd hbusy hready hd, rfl, rfl⟩
  · exact (ExecOutcome.applyIllegal k f p hp).exec_eq
  · obtain ⟨t, ht⟩ := engine_next s
    have houtcome := agentStep_outcome .engine s t ht
    exact ⟨t, ht, houtcome.overrun_of_engine, houtcome.dropWrite.engine_eq⟩

/-! ## Dropped writes -/

/-- While a command is pending a write to CMD or to an operand sets OVERRUN alone (R32, R143). -/
theorem busWrite_of_busy {s : State} (hb : s.status.busy = true) {off : Nat}
    (hr : regAt off = .cmd ∨ regAt off = .maskIn ∨ ∃ j, regAt off = .wIn j) (v : Word) :
    busWrite off v s = dropWrite s := by
  obtain hr | hr | ⟨j, hr⟩ := hr
  · simp only [busWrite, hr, hb, if_true]
  · simp only [busWrite, hr, hb, if_true]
  · simp only [busWrite, hr, hb, if_true]

/-- The offsets from 0x40 on hold the read-only W_OUT and reserved offsets (R41, R43). -/
theorem busWrite_above_operands {off : Nat} (h : 0x40 ≤ off) (v : Word) (s : State) : busWrite off v s = s := by
  by_cases hout : off < 0x60
  · exact busWrite_at_wOut ⟨h, hout⟩ v s
  · exact busWrite_at_reserved (regAt_high off (Nat.le_of_not_lt hout)) v s

/-- Settles O41, by the register at each offset. -/
theorem writesWhileBusyAreDropped : Obligations.WritesWhileBusyAreDropped := by
  intro s v hbusy
  refine ⟨fun off hoff => ?_, congrArg (setStatus · s) (s.status.hostWrite_eq v), fun off hoff => ?_⟩
  · obtain rfl | rfl | ⟨j, rfl⟩ := hoff
    · exact busWrite_of_busy hbusy (.inl rfl) v
    · exact busWrite_of_busy hbusy (.inr (.inl rfl)) v
    · exact busWrite_of_busy hbusy (.inr (.inr ⟨j, regAt_regOffset (.wIn j)⟩)) v
  · obtain rfl | rfl | rfl | rfl | rfl | ⟨hlow, _⟩ := hoff
    · rfl
    · rfl
    · rfl
    · rfl
    · rfl
    · exact busWrite_above_operands hlow v s

end Sys2Proof.Machine

/-! SUPPORT. Proofs about reset and the agents' turns (70_reset_and_hazards.md): first what reset leaves and what a step
does while reset is asserted, then the Engine's and the Builder's turns, and last how long an accepted command can wait. -/

namespace Sys2Proof.Machine

/-! ## The registers after reset -/

theorem SameWindow.trans {s t u : State} (hst : SameWindow s t) (htu : SameWindow t u) : SameWindow s u := by
  obtain ⟨hstatus, hcmd, hmaskIn, hmaskOut, hkeyhdr, hwIn, hwOut⟩ := hst
  obtain ⟨hstatus', hcmd', hmaskIn', hmaskOut', hkeyhdr', hwIn', hwOut'⟩ := htu
  exact ⟨hstatus.trans hstatus', hcmd.trans hcmd', hmaskIn.trans hmaskIn', hmaskOut.trans hmaskOut',
    hkeyhdr.trans hkeyhdr', hwIn.trans hwIn', hwOut.trans hwOut'⟩

theorem SameWindow.readReg_eq {s t : State} (h : SameWindow s t) (r : Reg) : readReg s r = readReg t r := by
  obtain ⟨hstatus, hcmd, hmaskIn, hmaskOut, hkeyhdr, hwIn, hwOut⟩ := h
  cases r with
  | cap | reserved => rfl
  | status => simp only [readReg, hstatus]
  | cmd => exact hcmd
  | maskIn => simp only [readReg, hmaskIn]
  | maskOut => simp only [readReg, hmaskOut]
  | keyhdr => simp only [readReg, hkeyhdr]
  | wIn j => simp only [readReg, hwIn]
  | wOut j => simp only [readReg, hwOut]

/-- The final observation reads the registers alone (R170). -/
theorem SameWindow.observation_eq {s t : State} (h : SameWindow s t) : observation s = observation t := by
  simp only [observation, h.readReg_eq]

theorem sameWindow_resetRegisters (s : State) : SameWindow (resetRegisters s) State.reset :=
  ⟨rfl, rfl, rfl, rfl, rfl, rfl, rfl⟩

/-- Settles O36: the values are computed at the state after reset, and reset leaves its registers from every state. -/
theorem resetValuesOfEveryRegister : Obligations.ResetValuesOfEveryRegister :=
  ⟨by decide, rfl, fun s => ⟨sameWindow_resetRegisters s, (sameWindow_resetRegisters s).observation_eq⟩⟩

/-! ## Reset events and steps while reset is asserted -/

theorem hostStep_assertReset (s : State) {ops : List HostOp} (hp : s.program = .assertReset :: ops) :
    hostStep s = .next (setProgram ops (setResetLine true (resetRegisters s))) := by
  rw [hostStep, hp]

theorem hostStep_releaseReset (s : State) {ops : List HostOp} (hp : s.program = .releaseReset :: ops) :
    hostStep s = .next (setProgram ops (setResetLine false (holdReset s))) := by
  rw [hostStep, hp]

/-- A step whose turn is the Host's. -/
theorem step_of_nextAgent_host {s : State} (he : s.status.errcode.toNat ≤ 2)
    (hnext : nextAgent (holdReset s) = .host) : step s = hostStep (setSchedule s.schedule.tail (holdReset s)) := by
  rw [step_eq s he, hnext, agentStep]

/-- While reset is asserted a host access moves no register from its reset value (R160, entry 7). -/
theorem HostOutcome.reset_values_stay {s t : State} (h : HostOutcome s t) (hr : s.resetLine = true)
    (hs : SameWindow s State.reset) : SameWindow t State.reset := by
  have hread (off : Nat) : SameWindow (busRead off s) State.reset := (sameRegisters_busRead off s.schedule s).1.trans hs
  cases h with
  | nothing | writeInReset => exact hs
  | read w off => exact hread off
  | pollDone | pollAgain => exact hread statusOffset
  | write w off v rest hp hd hreleased => exact absurd (hreleased.symm.trans hr) Bool.false_ne_true
  | assertReset => exact sameWindow_resetRegisters s
  | releaseReset =>
    rw [holdReset_asserted s hr]
    exact sameWindow_resetRegisters s

/-- While reset is asserted the Engine has no pending command and the Builder has no step (R160, R162). -/
theorem AgentOutcome.reset_values_stay {s t : State} {a : Agent} (h : AgentOutcome s a t) (hr : s.resetLine = true)
    (hs : SameWindow s State.reset) : SameWindow t State.reset := by
  have hidle : ¬ engineEnabled s = true := by
    obtain ⟨hstatus, _⟩ := hs
    rw [engineEnabled_iff, hstatus]
    exact fun ⟨hbusy, _⟩ => Bool.false_ne_true hbusy
  cases h with
  | host t hh => exact hh.reset_values_stay hr hs
  | command i t he | illegal e he => exact absurd he hidle
  | built hb => exact absurd (((builderEnabled_iff s).mp hb).2.symm.trans hr) Bool.false_ne_true
  | waiting | noBuild => exact hs

theorem reset_values_of_step {s t : State} (hr : s.resetLine = true) (h : step s = .next t) :
    SameWindow t State.reset := by
  obtain ⟨_, ho⟩ := step_outcome s t h
  rw [holdReset_asserted s hr] at ho
  exact ho.reset_values_stay hr (sameWindow_resetRegisters s)

/-- No host write clears BUSY (R44). -/
theorem WriteOutcome.busy_stays {off : Nat} {v : Word} {s t : State} (h : WriteOutcome off v s t)
    (hb : s.status.busy = true) : t.status.busy = true := by
  cases h with
  | ignored | maskIn | wIn | dropped => exact hb
  | status => rwa [setStatus_status, Status.hostWrite_busy]
  | accepted => rfl

/-- Settles O51: the Host's two reset events written out, a step while reset is asserted, and a write's outcomes. -/
theorem resetTakesEveryRegister : Obligations.ResetTakesEveryRegister := by
  refine ⟨fun s ops he hnext => ?_, fun s t => reset_values_of_step, fun s off v => ?_⟩
  · have hstep := step_of_nextAgent_host he hnext
    refine ⟨fun hp => ?_, fun hp hr => ?_, fun hp hr => ?_⟩
    · rw [hostStep_assertReset _ (by simpa using hp)] at hstep
      exact ⟨_, hstep, sameWindow_resetRegisters s, rfl, rfl⟩
    · rw [hostStep_releaseReset _ (by simpa using hp)] at hstep
      refine ⟨_, hstep, ?_, rfl, rfl⟩
      rw [holdReset_asserted _ (by simpa using hr)]
      exact sameWindow_resetRegisters s
    · rw [hostStep_releaseReset _ (by simpa using hp), holdReset_released s hr] at hstep
      refine ⟨_, hstep, ?_, rfl, rfl⟩
      rw [holdReset_released _ (by simpa using hr)]
      exact sameRegisters_setSchedule s.schedule.tail s
  · exact ⟨busWrite_ready off v s, (busWrite_outcome off v s).busy_stays, busWrite_resetLine off v s⟩

/-! ## The Engine's and the Builder's turns -/

/-- When nobody is scheduled an Engine whose tables are built goes before the Host (entry 2). -/
theorem nextAgent_engine {s : State} (hs : s.schedule = [] ∨ ∃ rest, s.schedule = .engine :: rest)
    (hbusy : s.status.busy = true) (hready : s.status.ready = true) : nextAgent s = .engine := by
  obtain hs | ⟨rest, hs⟩ := hs
  · have hbuilder : ¬ builderEnabled s = true := by
      rw [builderEnabled_iff, hready]
      exact fun ⟨hunready, _⟩ => Bool.false_ne_true hunready.symm
    rw [nextAgent_unscheduled s hs, defaultAgent, if_neg hbuilder, if_pos ((engineEnabled_iff s).mpr ⟨hbusy, hready⟩)]
  · exact nextAgent_scheduled s .engine rest hs

/-- When nobody is scheduled a Builder with a step goes first (entry 2). -/
theorem nextAgent_builder {s : State} (hs : s.schedule = []) (hready : s.status.ready = false)
    (hr : s.resetLine = false) : nextAgent s = .builder := by
  rw [nextAgent_unscheduled s hs, defaultAgent, if_pos ((builderEnabled_iff s).mpr ⟨hready, hr⟩)]

/-- The Engine's turn on a legal word is the command's meaning (R168). -/
theorem engine_runs_command {s : State} {i : Instr} (hbusy : s.status.busy = true) (hready : s.status.ready = true)
    (hd : decode s.cmd = .ok i) : agentStep .engine s = exec i s := by
  rw [agentStep, if_pos ((engineEnabled_iff s).mpr ⟨hbusy, hready⟩), engineStep, hd]

theorem builder_builds {s : State} (hready : s.status.ready = false) (hr : s.resetLine = false) :
    agentStep .builder s = .next (builderStep s) := by
  rw [agentStep, if_pos ((builderEnabled_iff s).mpr ⟨hready, hr⟩)]

/-- The Builder has no step once the tables are built or while reset is asserted; its turn passes (entry 15). -/
theorem builder_passes {s : State} (h : s.status.ready = true ∨ s.resetLine = true) :
    agentStep .builder s = .next s := by
  have hdisabled : ¬ builderEnabled s = true := by
    rw [builderEnabled_iff]
    rintro ⟨hunready, hreleased⟩
    obtain h | h := h
    · exact Bool.false_ne_true (hunready.symm.trans h)
    · exact Bool.false_ne_true (hreleased.symm.trans h)
  rw [agentStep, if_neg hdisabled]

/-- Settles O48: the turn is the Engine's, and it runs what CMD decodes to. -/
theorem stepRunsTheDecodedCommand : Obligations.StepRunsTheDecodedCommand := by
  intro s i he hr hs hbusy hready hd
  rw [step_eq s he, holdReset_released s hr, nextAgent_engine hs hbusy hready]
  exact engine_runs_command (s := setSchedule s.schedule.tail s) hbusy hready hd

/-- Settles O49: the Builder's turn leaves the built store, whose entries are the images, and READY. -/
theorem builderFillsEveryEntry : Obligations.BuilderFillsEveryEntry := by
  refine ⟨fun s rest he hr hready hs => ?_, fun s => builder_passes⟩
  have hstep : step s = .next (builderStep (setSchedule rest s)) := by
    rw [step_scheduled s .builder rest he hs, holdReset_released s hr]
    exact builder_builds hready hr
  refine ⟨_, hstep, rfl, fun k m i hi => ?_, rfl⟩
  have hentry : (builderStep (setSchedule rest s)).pt.read k m = scatter k m := read_built k m
  rw [hentry, scatter_getLsbD_dest k m i hi]

/-- Accepting a command and building the tables touch different fields (R33, R162), so their order does not matter. -/
theorem builderStep_acceptCommand (v : Word) (s : State) :
    builderStep (acceptCommand v s) = acceptCommand v (builderStep s) := rfl

/-- Settles O50: the state after the build is the one in which the word is written after the build. -/
theorem commandBeforeReadyWaits : Obligations.CommandBeforeReadyWaits := by
  intro s v hr hready hidle
  have hidle' : (builderStep s).status.busy = false := hidle
  rw [busWrite_cmd_of_idle hidle, busWrite_cmd_of_idle hidle']
  refine ⟨rfl, engine_waits_of_unready hready, _, builder_builds hready hr, ?_, rfl⟩
  rw [builderStep_acceptCommand]

/-! ## How long an accepted command can wait -/

/-- What O55 supposes of a state: legal, with a command pending and a host that only makes defined accesses. -/
structure CommandPending (s : State) : Prop where
  legal : Legal s
  busy : s.status.busy = true
  plain : s.program.all PlainOp = true

/-- A bound on the steps to completion: the turns that are scheduled, then the Builder's if the tables are unbuilt, then
the Engine's. -/
def stepsToCompletion (s : State) : Nat := s.schedule.length + if s.status.ready then 1 else 2

theorem stepsToCompletion_le (s : State) : stepsToCompletion s ≤ s.schedule.length + 2 := by
  unfold stepsToCompletion
  split <;> omega

/-- A pending command shows that reset is released: reset clears BUSY (R160). -/
theorem CommandPending.released {s : State} (h : CommandPending s) : s.resetLine = false := by
  cases hr : s.resetLine with
  | false => rfl
  | true =>
    have hbusy := h.busy
    rw [← h.legal.held hr] at hbusy
    cases hbusy

theorem CommandPending.not_hostTakes {s : State} (h : CommandPending s) {op : HostOp} (hop : PlainOp op = false) :
    ¬ HostTakes s op := by
  rintro ⟨_, ops, hp⟩
  have hplain := h.plain
  rw [hp, List.all_cons, hop] at hplain
  cases hplain

theorem CommandPending.unrefused {s : State} (h : CommandPending s) : s.program.all UnrefusedOp = true := by
  rw [List.all_eq_true]
  intro op hop
  simp only [UnrefusedOp, List.all_eq_true.mp h.plain op hop, Bool.true_or]

/-- No agent changes the schedule on its turn. -/
theorem AgentOutcome.schedule_eq {s t : State} {a : Agent} (h : AgentOutcome s a t) : t.schedule = s.schedule := by
  cases h with
  | host t hh => cases hh <;> simp
  | command i t he hd hx =>
    obtain ⟨_, _, _, _, _, _, hschedule, _⟩ := hx.frame
    exact hschedule
  | illegal | waiting | built | noBuild => rfl

theorem schedule_of_step {s t : State} (h : step s = .next t) : t.schedule = s.schedule.tail := by
  obtain ⟨_, ho⟩ := step_outcome s t h
  exact ho.schedule_eq

/-- The Engine's turn on a pending command with built tables completes it, with an error or without (R168). -/
theorem AgentOutcome.completed_of_engine {s t : State} (h : AgentOutcome s .engine t) (he : engineEnabled s = true) :
    t.status.busy = false := by
  cases h with
  | command i t _ hd hx =>
    obtain ⟨_, _, hbusy, _⟩ := hx.completed
    exact hbusy
  | illegal => rfl
  | waiting hw => exact absurd (hw.symm.trans he) Bool.false_ne_true

/-- With the schedule used up and a command still pending after the step, the step was the Builder's. -/
theorem CommandPending.built_of_unscheduled {s t : State} (h : CommandPending s) (hstep : step s = .next t)
    (hs : s.schedule = []) (hbusy : t.status.busy = true) : s.status.ready = false ∧ t.status.ready = true := by
  obtain ⟨_, ho⟩ := step_outcome s t hstep
  rw [holdReset_released s h.released] at ho
  cases hready : s.status.ready with
  | true =>
    rw [nextAgent_engine (.inl hs) h.busy hready] at ho
    have hdone := ho.completed_of_engine ((engineEnabled_iff _).mpr ⟨h.busy, hready⟩)
    exact absurd (hdone.symm.trans hbusy) Bool.false_ne_true
  | false =>
    rw [nextAgent_builder hs hready h.released] at ho
    cases ho with
    | built => exact ⟨rfl, rfl⟩
    | noBuild hb => exact absurd ((builderEnabled_iff _).mpr ⟨hready, h.released⟩) (Bool.eq_false_iff.mp hb)

/-- A step that leaves the command pending brings its completion nearer: it uses a turn of the schedule and keeps READY
(R28), or it is the Builder's. -/
theorem CommandPending.stepsToCompletion_lt {s t : State} (h : CommandPending s) (hstep : step s = .next t)
    (hbusy : t.status.busy = true) : stepsToCompletion t < stepsToCompletion s := by
  unfold stepsToCompletion
  rw [schedule_of_step hstep]
  cases hs : s.schedule with
  | nil =>
    obtain ⟨hunready, hbuilt⟩ := h.built_of_unscheduled hstep hs hbusy
    rw [hunready, hbuilt]
    decide
  | cons a rest =>
    have hkeep (hready : s.status.ready = true) : t.status.ready = true :=
      (readyAndTablesStay s t hready h.released (h.not_hostTakes rfl) (h.not_hostTakes rfl) hstep).1
    rw [List.tail_cons, List.length_cons]
    cases hready : s.status.ready with
    | true => simp [hkeep hready]
    | false => split <;> simp

/-- A step from a pending command keeps CMD, and completes the command or leaves it pending and nearer completion. -/
theorem CommandPending.step_completes_or_advances {s : State} (h : CommandPending s) :
    ∃ t, step s = .next t ∧ t.cmd = s.cmd
      ∧ (t.status.busy = false ∧ t.status.done = true
        ∨ CommandPending t ∧ stepsToCompletion t < stepsToCompletion s) := by
  obtain ⟨t, hstep, hlegal, _⟩ := h.legal.step_unrefused h.unrefused
  have hassert : ¬ HostTakes s .assertReset := h.not_hostTakes rfl
  have hrelease : ¬ HostTakes s .releaseReset := h.not_hostTakes rfl
  obtain ⟨hcmd, _⟩ := operandsAreFrozenWhileBusy s t h.busy h.released hassert hrelease hstep
  refine ⟨t, hstep, hcmd, ?_⟩
  cases hbusy : t.status.busy with
  | false =>
    have hbd := (runningStep_of_step h.released hassert hrelease hstep).busy_or_done (.inl h.busy)
    rw [hbusy] at hbd
    exact .inl ⟨rfl, hbd.resolve_left Bool.false_ne_true⟩
  | true =>
    have hplain : t.program.all PlainOp = true := by
      rw [List.all_eq_true]
      exact fun op hop => List.all_eq_true.mp h.plain op ((program_suffix_of_step hstep).subset hop)
    exact .inr ⟨⟨hlegal, hbusy, hplain⟩, h.stepsToCompletion_lt hstep hbusy⟩

/-- A pending command completes within the bound, by induction on it. -/
theorem CommandPending.run_completes (bound : Nat) : ∀ {s : State}, CommandPending s → stepsToCompletion s ≤ bound →
    ∃ n, n ≤ bound ∧ ∃ t, Host.Core.run Sys2Proof.core n s = .next t
      ∧ t.status.busy = false ∧ t.status.done = true ∧ t.cmd = s.cmd := by
  induction bound with
  | zero =>
    intro s _ hbound
    unfold stepsToCompletion at hbound
    split at hbound <;> omega
  | succ bound ih =>
    intro s h hbound
    obtain ⟨t, hstep, hcmd, ⟨hbusy, hdone⟩ | ⟨ht, hlt⟩⟩ := h.step_completes_or_advances
    · exact ⟨1, by omega, t, run_succ_of_step Sys2Proof.core hstep 0, hbusy, hdone, hcmd⟩
    · obtain ⟨n, hn, u, hrun, hbusy, hdone, hcmd'⟩ := ih ht (by omega)
      exact ⟨n + 1, by omega, u, (run_succ_of_step Sys2Proof.core hstep n).trans hrun, hbusy, hdone, hcmd'.trans hcmd⟩

/-- Settles O55: every step uses up a scheduled turn, the Builder's step or the Engine's. -/
theorem acceptedCommandCompletes : Obligations.AcceptedCommandCompletes := by
  intro s hlegal hbusy hplain
  exact CommandPending.run_completes (s.schedule.length + 2) ⟨hlegal, hbusy, hplain⟩ (stepsToCompletion_le s)

end Sys2Proof.Machine
